-- ==== Sys2Proof/Word.lean ====
section
/-! DEFINITION. The two word widths of the onion VM core (R6: XLEN8 = 8, XLEN32 = 32). -/

namespace Sys2Proof

/-- An 8-bit value, read as a number in 0..255 (R8). -/
abbrev Byte := BitVec 8

/-- A 32-bit value, read as a number in 0..2^32-1 (R8). -/
abbrev Word32 := BitVec 32

end Sys2Proof
end

