-- ==== Sys2Proof/Machine/Flags.lean ====
section
/-! DEFINITION. The arithmetic of the ALU (R115) and the flag: what CMP writes to `f` and how the jumps test it. No
other instruction computes a flag (R31). -/

namespace Sys2Proof.Machine

/-- `ALU_MODULUS`, the modulus of ADD and the correction of SUB (R6, R111, R112). -/
def aluModulus : Nat := 255

/-- `(a + b) mod 255` (R111). -/
def aluAdd (x y : Byte) : Byte := BitVec.ofNat 8 ((x.toNat + y.toNat) % aluModulus)

/-- `a - b`, and `+ 255` if that is negative (R112). -/
def aluSub (x y : Byte) : Byte :=
  let t : Int := (x.toNat : Int) - y.toNat
  BitVec.ofInt 8 (if t < 0 then t + aluModulus else t)

/-- Bitwise exclusive or (R113). -/
def aluXor (x y : Byte) : Byte := x ^^^ y

/-- The flag CMP writes: 0 if equal, 1 if not (R114). -/
def compareFlag (x y : Byte) : Byte := if x = y then 0 else 1

/-- The test of JEZ, and of JNZ inverted: the whole byte is 0 (R122, R123). -/
def flagIsZero (f : Byte) : Bool := decide (f = 0)

/-- `(ptr + k) mod 2^32` (R121, decision D6; log entry 11). -/
def addToPtr (ptr : Word32) (k : Byte) : Word32 := ptr + k.setWidth 32

end Sys2Proof.Machine
end

