-- ==== Sys2Proof/Config.lean ====
section
/-! DEFINITION. The constants of the machine that no instruction's result depends on (R6, R81). The spec leaves no
value free (its file 92 decides every open point), so there is no opaque constant here. -/

namespace Sys2Proof.Config

/-- `MEM_LEN` is below this number: `0 <= MEM_LEN <= 2^32 - 1` (R6, decision D5; log entry 9). -/
abbrev memLenLimit : Nat := 4294967296

/-- The longest instruction has five bytes (R81). -/
abbrev longestInstr : Nat := 5

end Sys2Proof.Config
end

