-- ==== Sys2Proof/Syntax.lean ====
section
/-! DEFINITION. The instructions: one constructor for each of the 23 rows of spec/opcode_table.json. R93's sum type has
one constructor per mnemonic; the table splits MV into four forms and MVI into two, and gives the opcode bytes that
fault six rows of their own (log entry 5). -/

namespace Sys2Proof

/-- The six 8-bit registers (R21). -/
inductive Reg8 where
  | a | b | c | d | e | f
  deriving DecidableEq, Repr

/-- The six registers the 32-bit index selects: the five 32-bit registers and `pc` (R23, R24). -/
inductive Reg32 where
  | la | lb | lc | ld | ptr | pc
  deriving DecidableEq, Repr

/-- A decoded instruction (R93, R99). -/
inductive Instr where
  /-- HALT (R131). -/
  | halt
  /-- OUT (R130). -/
  | out
  /-- JEZ target (R122). -/
  | jez (target : Word32)
  /-- JNZ target (R123). -/
  | jnz (target : Word32)
  /-- CMP (R114). -/
  | cmp
  /-- ADD (R111). -/
  | add
  /-- SUB (R112). -/
  | sub
  /-- XOR (R113). -/
  | xor
  /-- APTR delta (R121). -/
  | aptr (delta : Byte)
  /-- MV x <- y, register to register (R142). -/
  | mv (dst src : Reg8)
  /-- MV x <- (ptr+c), load (R143). -/
  | mvLoad (dst : Reg8)
  /-- MV (ptr+c) <- y, store (R144). -/
  | mvStore (src : Reg8)
  /-- MV (ptr+c) <- (ptr+c), memory to memory (R145). -/
  | mvMemMem
  /-- MVI x <- k, immediate to register (R146). -/
  | mvi (dst : Reg8) (imm : Byte)
  /-- MVI (ptr+c) <- k, immediate to memory (R147). -/
  | mviStore (imm : Byte)
  /-- MV32 x <- y (R161). -/
  | mv32 (dst src : Reg32)
  /-- MVI32 x <- V (R162). -/
  | mvi32 (dst : Reg32) (imm : Word32)
  /-- An MV-family byte with destination index 0 (R91, R203). -/
  | uriMvDst0 (src : BitVec 3)
  /-- An MV32-family byte with destination index 0 (R91, R165). -/
  | uriMv32Dst0 (src : BitVec 3)
  /-- An MV32-family byte with destination index 7 (R91, R165). -/
  | uriMv32Dst7 (src : BitVec 3)
  /-- An MV32-family byte with destination 1..6 and source index 7 (R91, R165). -/
  | uriMv32Src7 (dst : Reg32)
  /-- A byte with leading bits 00 outside the exact-match table (R90); `low` is its bits 5:0. -/
  | invalidLead00 (low : BitVec 6)
  /-- A byte with leading bits 11 outside the exact-match table (R90); `low` is its bits 5:0. -/
  | invalidLead11 (low : BitVec 6)
  deriving DecidableEq, Repr

end Sys2Proof
end

