-- ==== Sys2Proof/WellFormed.lean ====
section
/-! DEFINITION. Which instruction terms some bytes encode. The register types already exclude the indices with no
register, so only the two InvalidOpcode rows need a check: their low bits are not those of an exact-match byte. -/

namespace Sys2Proof

/-- The low six bits of the exact-match bytes with leading bits 00: 0x01, 0x02, 0x21, 0x22 (R82, R90). -/
def exactLow00 : List (BitVec 6) := [0x01, 0x02, 0x21, 0x22]

/-- The low six bits of the exact-match bytes with leading bits 11: 0xC1, 0xC2, 0xC3, 0xC4, 0xE1 (R82, R90). -/
def exactLow11 : List (BitVec 6) := [0x01, 0x02, 0x03, 0x04, 0x21]

/-- The instruction is one that some bytes encode. -/
def Instr.wf : Instr → Bool
  | .invalidLead00 low => !exactLow00.contains low
  | .invalidLead11 low => !exactLow11.contains low
  | .halt | .out | .jez _ | .jnz _ | .cmp | .add | .sub | .xor | .aptr _ => true
  | .mv _ _ | .mvLoad _ | .mvStore _ | .mvMemMem | .mvi _ _ | .mviStore _ => true
  | .mv32 _ _ | .mvi32 _ _ => true
  | .uriMvDst0 _ | .uriMv32Dst0 _ | .uriMv32Dst7 _ | .uriMv32Src7 _ => true

/-- `Instr.wf` as a proposition. -/
abbrev Instr.WellFormed (i : Instr) : Prop := i.wf = true

end Sys2Proof
end

