-- ==== Sys2Proof/Decode.lean ====
section
/-! DEFINITION. The instruction decoder (R80 to R95) and the encoder (R96). -/

namespace Sys2Proof

/-- The 8-bit register an index 1..6 selects; none for 0 (immediate) and 7 (`(ptr+c)`) (R22, decision D2; log entry 6). -/
def reg8OfIndex (i : BitVec 3) : Option Reg8 :=
  match i.toNat with
  | 1 => some .a
  | 2 => some .b
  | 3 => some .c
  | 4 => some .d
  | 5 => some .e
  | 6 => some .f
  | _ => none

/-- The 32-bit register an index 1..6 selects; none for 0 and 7 (R24). -/
def reg32OfIndex (i : BitVec 3) : Option Reg32 :=
  match i.toNat with
  | 1 => some .la
  | 2 => some .lb
  | 3 => some .lc
  | 4 => some .ld
  | 5 => some .ptr
  | 6 => some .pc
  | _ => none

/-- `i8` of R96: the index of an 8-bit register. -/
def indexOfReg8 : Reg8 → BitVec 3
  | .a => 1 | .b => 2 | .c => 3 | .d => 4 | .e => 5 | .f => 6

/-- `i32` of R96: the index of a 32-bit register. -/
def indexOfReg32 : Reg32 → BitVec 3
  | .la => 1 | .lb => 2 | .lc => 3 | .ld => 4 | .ptr => 5 | .pc => 6

/-- `fam = op[7:6]` (R81). -/
def opFam (op : Byte) : BitVec 2 := op.extractLsb' 6 2

/-- `dst = op[5:3]` (R81). -/
def opDst (op : Byte) : BitVec 3 := op.extractLsb' 3 3

/-- `src = op[2:0]` (R81). -/
def opSrc (op : Byte) : BitVec 3 := op.extractLsb' 0 3

/-- `nops(op)`: how many operand bytes follow the opcode byte (R94). A byte that faults at classification has none, so
that fault comes before any operand byte is looked at (R95, decision D14). -/
def operandCount (op : Byte) : Nat :=
  if op = 0x21 ∨ op = 0x22 then 4
  else if op = 0xE1 then 1
  else if opFam op = 1 ∧ opSrc op = 0 ∧ opDst op ≠ 0 then 1
  else if opFam op = 2 ∧ opSrc op = 0 ∧ opDst op ≠ 0 ∧ opDst op ≠ 7 then 4
  else 0

/-- `le32`: the byte at the lowest address is the least significant (R86, decision D3; log entry 7). -/
def le32 (b0 b1 b2 b3 : Byte) : Word32 :=
  BitVec.ofNat 32 (b0.toNat + 256 * b1.toNat + 65536 * b2.toNat + 16777216 * b3.toNat)

/-- The four bytes of an immediate, `b0 .. b3` of R96. -/
def le32Bytes (v : Word32) : List Byte :=
  [v.extractLsb' 0 8, v.extractLsb' 8 8, v.extractLsb' 16 8, v.extractLsb' 24 8]

/-- The operand byte `imm8` (R87). -/
def imm8Of (operands : List Byte) : Byte := operands.getD 0 0

/-- The operand `imm32` (R86). -/
def imm32Of (operands : List Byte) : Word32 :=
  le32 (operands.getD 0 0) (operands.getD 1 0) (operands.getD 2 0) (operands.getD 3 0)

/-- Stage 2 in the MV family (R84). -/
def decodeMv (dst src : BitVec 3) (operands : List Byte) : Instr :=
  if dst = 0 then .uriMvDst0 src
  else if src = 0 then
    match reg8OfIndex dst with
    | some x => .mvi x (imm8Of operands)
    | none => .mviStore (imm8Of operands)
  else
    match reg8OfIndex dst, reg8OfIndex src with
    | some x, some y => .mv x y
    | some x, none => .mvLoad x
    | none, some y => .mvStore y
    | none, none => .mvMemMem

/-- Stage 2 in the MV32 family (R85). -/
def decodeMv32 (dst src : BitVec 3) (operands : List Byte) : Instr :=
  if dst = 0 then .uriMv32Dst0 src
  else
    match reg32OfIndex dst with
    | none => .uriMv32Dst7 src
    | some x =>
      if src = 0 then .mvi32 x (imm32Of operands)
      else
        match reg32OfIndex src with
        | some y => .mv32 x y
        | none => .uriMv32Src7 x

/-- The instruction of an opcode byte and its operand bytes: the exact-match table first, then the leading bits
(R82, R83, R95). `operands` holds `operandCount op` bytes. -/
def decodeInstr (op : Byte) (operands : List Byte) : Instr :=
  if op = 0x01 then .halt
  else if op = 0x02 then .out
  else if op = 0xC1 then .cmp
  else if op = 0xC2 then .add
  else if op = 0xC3 then .sub
  else if op = 0xC4 then .xor
  else if op = 0x21 then .jez (imm32Of operands)
  else if op = 0x22 then .jnz (imm32Of operands)
  else if op = 0xE1 then .aptr (imm8Of operands)
  else if opFam op = 1 then decodeMv (opDst op) (opSrc op) operands
  else if opFam op = 2 then decodeMv32 (opDst op) (opSrc op) operands
  else if opFam op = 0 then .invalidLead00 (op.extractLsb' 0 6)
  else .invalidLead11 (op.extractLsb' 0 6)

/-- What decoding a sequence of bytes gives. -/
inductive Decoded where
  /-- An instruction and the bytes after it. -/
  | instr (i : Instr) (rest : List Byte)
  /-- There is no opcode byte. -/
  | noOpcode
  /-- The opcode byte needs `count` operand bytes and fewer follow. -/
  | missingOperands (op : Byte) (count : Nat)
  deriving DecidableEq, Repr

/-- Decode the instruction at the head of a sequence of bytes (R95). Total: every sequence gives an instruction or is
rejected by name. -/
def decode : List Byte → Decoded
  | [] => .noOpcode
  | op :: rest =>
    if rest.length < operandCount op then .missingOperands op (operandCount op)
    else .instr (decodeInstr op (rest.take (operandCount op))) (rest.drop (operandCount op))

/-- The opcode byte of an instruction (R96, R99). -/
def opcodeOf : Instr → Byte
  | .halt => 0x01
  | .out => 0x02
  | .jez _ => 0x21
  | .jnz _ => 0x22
  | .cmp => 0xC1
  | .add => 0xC2
  | .sub => 0xC3
  | .xor => 0xC4
  | .aptr _ => 0xE1
  | .mv x y => 1#2 ++ indexOfReg8 x ++ indexOfReg8 y
  | .mvLoad x => 1#2 ++ indexOfReg8 x ++ 7#3
  | .mvStore y => 1#2 ++ 7#3 ++ indexOfReg8 y
  | .mvMemMem => 0x7F
  | .mvi x _ => 1#2 ++ indexOfReg8 x ++ 0#3
  | .mviStore _ => 0x78
  | .mv32 x y => 2#2 ++ indexOfReg32 x ++ indexOfReg32 y
  | .mvi32 x _ => 2#2 ++ indexOfReg32 x ++ 0#3
  | .uriMvDst0 s => 1#2 ++ 0#3 ++ s
  | .uriMv32Dst0 s => 2#2 ++ 0#3 ++ s
  | .uriMv32Dst7 s => 2#2 ++ 7#3 ++ s
  | .uriMv32Src7 x => 2#2 ++ indexOfReg32 x ++ 7#3
  | .invalidLead00 low => 0#2 ++ low
  | .invalidLead11 low => 3#2 ++ low

/-- The operand bytes of an instruction (R81, R96). -/
def operandsOf : Instr → List Byte
  | .jez t => le32Bytes t
  | .jnz t => le32Bytes t
  | .aptr k => [k]
  | .mvi _ k => [k]
  | .mviStore k => [k]
  | .mvi32 _ v => le32Bytes v
  | .halt | .out | .cmp | .add | .sub | .xor => []
  | .mv _ _ | .mvLoad _ | .mvStore _ | .mvMemMem | .mv32 _ _ => []
  | .uriMvDst0 _ | .uriMv32Dst0 _ | .uriMv32Dst7 _ | .uriMv32Src7 _ => []
  | .invalidLead00 _ | .invalidLead11 _ => []

/-- The bytes of an instruction (R96). -/
def encode (i : Instr) : List Byte := opcodeOf i :: operandsOf i

/-- The length of an instruction in bytes (R81, R94). -/
def instrLength (i : Instr) : Nat := 1 + (operandsOf i).length

/-- The bytes of a table word: bit 0 is the least significant bit of the first byte, later bytes count on from it, and
every bit from `nbits` up is 0, up to the longest instruction. -/
def tableBytes (nbits w : Nat) : List Byte :=
  (List.range Config.longestInstr).map fun k => BitVec.ofNat 8 ((w % 2 ^ nbits) >>> (8 * k))

/-- The instruction the decoder reads from a table word. -/
def decodeTableWord (nbits w : Nat) : Option Instr :=
  match decode (tableBytes nbits w) with
  | .instr i _ => some i
  | .noOpcode => none
  | .missingOperands _ _ => none

end Sys2Proof
end

