-- ==== Sys2Proof/Machine/State.lean ====
section
/-! DEFINITION. The state of the machine (R20), as plain data, and its reset value (R39). -/

namespace Sys2Proof.Machine

/-- The one byte buffer (R38, R50, R51). -/
structure Memory where
  /-- `MEM_LEN`, fixed at construction (R6, R51). -/
  len : Fin Config.memLenLimit
  /-- The cells whose byte is not 0, by strictly rising address (log entry 3). -/
  cells : List Host.Cell
  deriving DecidableEq, Repr

/-- The controller's states (R33). -/
inductive Status where
  | running | halted | faulted
  deriving DecidableEq, Repr

/-- The four faults (R200). -/
inductive Cause where
  | invalidOpcode | outOfBoundsAccess | unreachableRegisterIndex | stepLimitExceeded
  deriving DecidableEq, Repr

/-- The fault record (R206). -/
structure FaultRecord where
  /-- Which fault. -/
  cause : Cause
  /-- The offset of the opcode byte of the instruction that faulted or was not started. -/
  pc : Word32
  /-- The opcode byte at that offset, where one was seen. -/
  opcode : Option Byte
  /-- The first offset of a refused range. -/
  offset : Option (BitVec 33)
  /-- The length of a refused range, 1 or 4. -/
  size : Option Nat
  deriving DecidableEq, Repr

/-- The whole state of the machine (R20), and the run's argument `MAX_STEPS` (R6, R215). -/
structure State where
  /-- ALU accumulator and OUT source (R21). -/
  a : Byte
  /-- Second ALU operand (R21). -/
  b : Byte
  /-- Offset of `(ptr+c)` (R21, R58). -/
  c : Byte
  /-- General (R21). -/
  d : Byte
  /-- General (R21). -/
  e : Byte
  /-- The comparison flag, movable like a general register (R21, R31). -/
  f : Byte
  /-- General (R23). -/
  la : Word32
  /-- General (R23). -/
  lb : Word32
  /-- General (R23). -/
  lc : Word32
  /-- General (R23). -/
  ld : Word32
  /-- Base of `(ptr+c)` (R23). -/
  ptr : Word32
  /-- The offset of the next byte to fetch (R27). -/
  pc : Word32
  /-- Program and data (R38). -/
  mem : Memory
  /-- The output, oldest byte first (R32). -/
  out : List Byte
  /-- The controller's state (R33). -/
  status : Status
  /-- The fault record, present when the machine is Faulted (R34). -/
  fault : Option FaultRecord
  /-- Instructions completed since reset (R35). -/
  steps : Nat
  /-- `MAX_STEPS`: the run's optional step bound, written by no step (R6, R215; log entry 4). -/
  maxSteps : Option Nat
  deriving DecidableEq, Repr

/-- Why a step of the model stops with a fault. The machine's own faults are next states (R206); this is the end of
the run they lead to. -/
inductive Fault where
  /-- Raised by `step` in the Faulted state: the run is over and its result is this record (R183, R209). Safe: no step
  is defined from Faulted (R33). -/
  | runFaulted (record : Option FaultRecord)
  deriving DecidableEq, Repr

/-- Why a step of the model has no meaning. -/
inductive Refusal where
  /-- Raised by `step` in the Halted state: the run is over and its result is `out` (R183, R41). Safe: no step is
  defined from Halted (R33). -/
  | runHalted
  /-- Raised by `exec` for an instruction with no meaning yet; no arm does. Safe. -/
  | notModelled (mnemonic : String)
  deriving DecidableEq, Repr

/-- The machine right after construction from the empty image, with no step bound: the reset values of R39. An image
comes in from outside, through `construct` (log entries 1, 2). -/
def State.reset : State :=
  { a := 0, b := 0, c := 0, d := 0, e := 0, f := 0
    la := 0, lb := 0, lc := 0, ld := 0, ptr := 0, pc := 0
    mem := { len := ⟨0, by decide⟩, cells := [] }
    out := [], status := .running, fault := none, steps := 0, maxSteps := none }

end Sys2Proof.Machine
end

