-- ==== Sys2Proof/Machine/Ops.lean ====
section
/-! DEFINITION. The named operations over memory, `pc`, the output and the controller's state, and taking a fault. -/

namespace Sys2Proof.Machine

/-- What an address that is not listed reads as. Every in-bounds byte has a value from IMAGE (R52), so this is a choice
of representation only (log entry 3). -/
def unlistedByte : Byte := 0

/-- The byte a list of cells in rising order gives an address. -/
def lookupCell : List Host.Cell → Nat → Byte
  | [], _ => unlistedByte
  | (k, w) :: rest, o => if o < k then unlistedByte else if o = k then w else lookupCell rest o

/-- A list of cells in rising order with one byte replaced, still with no unlisted byte in it. -/
def setCell : List Host.Cell → Nat → Byte → List Host.Cell
  | [], o, v => if v = unlistedByte then [] else [(o, v)]
  | (k, w) :: rest, o, v =>
    if o < k then (if v = unlistedByte then (k, w) :: rest else (o, v) :: (k, w) :: rest)
    else if o = k then (if v = unlistedByte then rest else (o, v) :: rest)
    else (k, w) :: setCell rest o v

/-- The cells' addresses rise strictly from `lo` on, stay below `len`, and no byte is the unlisted one. -/
def cellsWf (len : Nat) : Nat → List Host.Cell → Bool
  | _, [] => true
  | lo, (k, w) :: rest => decide (lo ≤ k) && decide (k < len) && decide (w ≠ unlistedByte) && cellsWf len (k + 1) rest

/-- The canonical form of memory: equal memories are equal data. -/
def Memory.wf (m : Memory) : Bool := cellsWf m.len.val 0 m.cells

/-- The bounds check: `o + n <= MEM_LEN`, without wraparound (R54). -/
def Memory.inBounds (m : Memory) (o n : Nat) : Bool := decide (o + n ≤ m.len.val)

/-- `MemRead(o, n)`: the bytes at `o .. o+n-1` in address order, none where the bounds check fails (R9, R54). -/
def Memory.readRange? (m : Memory) (o n : Nat) : Option (List Byte) :=
  if m.inBounds o n then some ((List.range n).map fun k => lookupCell m.cells (o + k)) else none

/-- `peek_from(o, 1)`: the byte at `o` (R57). -/
def Memory.read? (m : Memory) (o : Nat) : Option Byte :=
  if m.inBounds o 1 then some (lookupCell m.cells o) else none

/-- `write_at(o, 1, v)`: sets the byte at `o` and no other (R57). -/
def Memory.write? (m : Memory) (o : Nat) (v : Byte) : Option Memory :=
  if m.inBounds o 1 then some { m with cells := setCell m.cells o v } else none

/-- The byte at `pc`, which `Peek(1)` gives (R55). -/
def State.peekByte (s : State) : Option Byte := s.mem.read? s.pc.toNat

/-- `pc <- pc + n` (R28). -/
def State.advance (n : Nat) (s : State) : State := { s with pc := s.pc + BitVec.ofNat 32 n }

/-- `Fetch(n)`, the source's `read(size)`: `n` bytes at `pc`, and `pc` moved past them (R56). -/
def State.fetch (n : Nat) (s : State) : Option (List Byte × State) :=
  match s.mem.readRange? s.pc.toNat n with
  | none => none
  | some bytes => some (bytes, s.advance n)

/-- `pc <- v`, a jump (R29). -/
def State.setPc (v : Word32) (s : State) : State := { s with pc := v }

/-- The state with another memory. -/
def State.setMem (m : Memory) (s : State) : State := { s with mem := m }

/-- `Out(v)`: appends one byte to the output (R32). -/
def State.appendOut (v : Byte) (s : State) : State := { s with out := s.out ++ [v] }

/-- `status <- Halted` (R131). -/
def State.halt (s : State) : State := { s with status := .halted }

/-- One more instruction has completed (R35, R181). -/
def State.countStep (s : State) : State := { s with steps := s.steps + 1 }

/-- Fault entry: the machine becomes Faulted, the record is filled, and nothing else changes (R206 to R208;
log entry 8). -/
def State.takeFault (r : FaultRecord) (s : State) : State := { s with status := .faulted, fault := some r }

/-- The code of a cause (R200). -/
def causeCode : Cause → Nat
  | .invalidOpcode => 1
  | .outOfBoundsAccess => 2
  | .unreachableRegisterIndex => 3
  | .stepLimitExceeded => 4

/-- The record of a fault that refuses no memory range (R206). -/
def plainRecord (cause : Cause) (opcode : Option Byte) (s : State) : FaultRecord :=
  { cause := cause, pc := s.pc, opcode := opcode, offset := none, size := none }

/-- The record of an access of `size` bytes at `offset` outside memory (R202, R206). -/
def accessRecord (opcode : Option Byte) (offset size : Nat) (s : State) : FaultRecord :=
  { cause := .outOfBoundsAccess, pc := s.pc, opcode := opcode, offset := some (BitVec.ofNat 33 offset)
    size := some size }

/-- The end of an instruction that completed: the step is counted (R181). -/
def complete (s : State) : Host.Outcome State Fault Refusal := .next s.countStep

/-- The end of an instruction that raised a fault: `s` is the state its step began in (R181, R208). -/
def raise (r : FaultRecord) (s : State) : Host.Outcome State Fault Refusal := .next (s.takeFault r)

/-- The step bound is given and that many instructions have completed (R215). -/
def State.atStepLimit (s : State) : Bool :=
  match s.maxSteps with
  | none => false
  | some n => decide (n ≤ s.steps)

end Sys2Proof.Machine
end

