-- ==== Sys2Proof/Machine/Operands.lean ====
section
/-! DEFINITION. The operand forms: the two register files (R22, R24) and `(ptr+c)` (R58). -/

namespace Sys2Proof.Machine

/-- `x8[i]` (R9, R22). -/
def State.x8 (r : Reg8) (s : State) : Byte :=
  match r with
  | .a => s.a
  | .b => s.b
  | .c => s.c
  | .d => s.d
  | .e => s.e
  | .f => s.f

/-- `x8[i] <- v` (R9, R22). -/
def State.setX8 (r : Reg8) (v : Byte) (s : State) : State :=
  match r with
  | .a => { s with a := v }
  | .b => { s with b := v }
  | .c => { s with c := v }
  | .d => { s with d := v }
  | .e => { s with e := v }
  | .f => { s with f := v }

/-- `x32[i]` (R9, R24). -/
def State.x32 (r : Reg32) (s : State) : Word32 :=
  match r with
  | .la => s.la
  | .lb => s.lb
  | .lc => s.lc
  | .ld => s.ld
  | .ptr => s.ptr
  | .pc => s.pc

/-- `x32[i] <- v`; for `pc` this is a jump (R9, R24, R164). -/
def State.setX32 (r : Reg32) (v : Word32) (s : State) : State :=
  match r with
  | .la => { s with la := v }
  | .lb => { s with lb := v }
  | .lc => { s with lc := v }
  | .ld => { s with ld := v }
  | .ptr => { s with ptr := v }
  | .pc => s.setPc v

/-- `ea = ptr + c`, the mathematical sum, never wrapped (R58, decision D7; log entry 10). -/
def State.ea (s : State) : Nat := s.ptr.toNat + s.c.toNat

/-- The fault of a data access at `ea` outside memory (R202); `s` is the state the step began in. -/
def dataOutOfBounds (opcode : Byte) (s : State) : Host.Outcome State Fault Refusal :=
  raise (accessRecord (some opcode) s.ea 1 s) s

/-- The load of the MV family: the byte at `ea` goes to `dst` (R143). `s` is the state the step began in and `s1` the
state with `pc` advanced. -/
def loadTo (opcode : Byte) (dst : Reg8) (s s1 : State) : Host.Outcome State Fault Refusal :=
  match s1.mem.read? s1.ea with
  | none => dataOutOfBounds opcode s
  | some v => complete (s1.setX8 dst v)

/-- The store of the MV family: `v` goes to the byte at `ea` (R144, R147). `s` is the state the step began in and `s1`
the state with `pc` advanced. -/
def storeByte (opcode v : Byte) (s s1 : State) : Host.Outcome State Fault Refusal :=
  match s1.mem.write? s1.ea v with
  | none => dataOutOfBounds opcode s
  | some m => complete (s1.setMem m)

end Sys2Proof.Machine
end

