-- ==== Sys2Proof/Machine/Alu.lean ====
section
/-! DEFINITION. ADD, SUB, XOR and CMP (40_alu_compare.md). Every meaning takes the state its step began in, with `pc` on
the opcode byte, and begins by moving `pc` past the instruction (R28). -/

namespace Sys2Proof.Machine

/-- ADD (R111). -/
def execAdd (s : State) : Host.Outcome State Fault Refusal :=
  complete ((s.advance 1).setX8 .a (aluAdd s.a s.b))

/-- SUB (R112). -/
def execSub (s : State) : Host.Outcome State Fault Refusal :=
  complete ((s.advance 1).setX8 .a (aluSub s.a s.b))

/-- XOR (R113). -/
def execXor (s : State) : Host.Outcome State Fault Refusal :=
  complete ((s.advance 1).setX8 .a (aluXor s.a s.b))

/-- CMP (R114). -/
def execCmp (s : State) : Host.Outcome State Fault Refusal :=
  complete ((s.advance 1).setX8 .f (compareFlag s.a s.b))

end Sys2Proof.Machine
end

