-- ==== Sys2Proof/Machine/FaultEncodings.lean ====
section
/-! DEFINITION. The opcode bytes that fault at classification: the six fault rows of the opcode table (R90, R91). Each
meaning takes its fault; `pc` stays on the opcode byte and no byte is consumed (R201, R203, R208). -/

namespace Sys2Proof.Machine

/-- UnreachableRegisterIndex, naming the instruction's opcode byte (R203, R206). -/
def raiseUnreachableIndex (i : Instr) (s : State) : Host.Outcome State Fault Refusal :=
  raise (plainRecord .unreachableRegisterIndex (some (opcodeOf i)) s) s

/-- InvalidOpcode, naming the opcode byte and its offset (R201, R206). -/
def raiseInvalidOpcode (i : Instr) (s : State) : Host.Outcome State Fault Refusal :=
  raise (plainRecord .invalidOpcode (some (opcodeOf i)) s) s

/-- `0x40..0x47`: MV family, destination index 0 (R91, R203). -/
def execUriMvDst0 (src : BitVec 3) (s : State) : Host.Outcome State Fault Refusal :=
  raiseUnreachableIndex (.uriMvDst0 src) s

/-- `0x80..0x87`: MV32 family, destination index 0 (R91, R165). -/
def execUriMv32Dst0 (src : BitVec 3) (s : State) : Host.Outcome State Fault Refusal :=
  raiseUnreachableIndex (.uriMv32Dst0 src) s

/-- `0xB8..0xBF`: MV32 family, destination index 7 (R91, R165). -/
def execUriMv32Dst7 (src : BitVec 3) (s : State) : Host.Outcome State Fault Refusal :=
  raiseUnreachableIndex (.uriMv32Dst7 src) s

/-- `0x8F, 0x97, 0x9F, 0xA7, 0xAF, 0xB7`: MV32 family, source index 7 (R91, R165). -/
def execUriMv32Src7 (dst : Reg32) (s : State) : Host.Outcome State Fault Refusal :=
  raiseUnreachableIndex (.uriMv32Src7 dst) s

/-- Leading bits 00 outside the exact-match table (R90, R201). -/
def execInvalidLead00 (low : BitVec 6) (s : State) : Host.Outcome State Fault Refusal :=
  raiseInvalidOpcode (.invalidLead00 low) s

/-- Leading bits 11 outside the exact-match table (R90, R201). -/
def execInvalidLead11 (low : BitVec 6) (s : State) : Host.Outcome State Fault Refusal :=
  raiseInvalidOpcode (.invalidLead11 low) s

end Sys2Proof.Machine
end

