-- ==== Sys2Proof/Machine/Jump.lean ====
section
/-! DEFINITION. APTR, JEZ and JNZ (41_aptr_jumps.md). -/

namespace Sys2Proof.Machine

/-- APTR k (R121). -/
def execAptr (delta : Byte) (s : State) : Host.Outcome State Fault Refusal :=
  complete ((s.advance 2).setX32 .ptr (addToPtr s.ptr delta))

/-- JEZ T: `pc` passes all five bytes first, taken or not (R122). -/
def execJez (target : Word32) (s : State) : Host.Outcome State Fault Refusal :=
  complete (if flagIsZero s.f then (s.advance 5).setPc target else s.advance 5)

/-- JNZ T (R123). -/
def execJnz (target : Word32) (s : State) : Host.Outcome State Fault Refusal :=
  complete (if flagIsZero s.f then s.advance 5 else (s.advance 5).setPc target)

end Sys2Proof.Machine
end

