-- ==== Sys2Proof/Machine/Move32.lean ====
section
/-! DEFINITION. The MV32 family (44_mv32.md). -/

namespace Sys2Proof.Machine

/-- MV32 x <- y: the source is read after `pc` was advanced, so `pc` reads as the next instruction's offset, and a
write to `pc` replaces the advance (R161, R163, R164; log entry 12). -/
def execMv32 (dst src : Reg32) (s : State) : Host.Outcome State Fault Refusal :=
  complete ((s.advance 1).setX32 dst ((s.advance 1).x32 src))

/-- MVI32 x <- V (R162, R164). -/
def execMvi32 (dst : Reg32) (imm : Word32) (s : State) : Host.Outcome State Fault Refusal :=
  complete ((s.advance 5).setX32 dst imm)

end Sys2Proof.Machine
end

