-- ==== Sys2Proof/Machine/Move8.lean ====
section
/-! DEFINITION. The MV family (43_mv8.md). A fault's record names the instruction's own opcode byte (R206). -/

namespace Sys2Proof.Machine

/-- MV x <- y (R142). -/
def execMv (dst src : Reg8) (s : State) : Host.Outcome State Fault Refusal :=
  complete ((s.advance 1).setX8 dst (s.x8 src))

/-- MV x <- (ptr+c) (R143). -/
def execMvLoad (dst : Reg8) (s : State) : Host.Outcome State Fault Refusal :=
  loadTo (opcodeOf (.mvLoad dst)) dst s (s.advance 1)

/-- MV (ptr+c) <- y (R144). -/
def execMvStore (src : Reg8) (s : State) : Host.Outcome State Fault Refusal :=
  storeByte (opcodeOf (.mvStore src)) (s.x8 src) s (s.advance 1)

/-- MV (ptr+c) <- (ptr+c): the read reports a fault, then the same byte is written back (R145). -/
def execMvMemMem (s : State) : Host.Outcome State Fault Refusal :=
  match s.mem.read? s.ea with
  | none => dataOutOfBounds (opcodeOf .mvMemMem) s
  | some v => storeByte (opcodeOf .mvMemMem) v s (s.advance 1)

/-- MVI x <- k (R146). -/
def execMvi (dst : Reg8) (imm : Byte) (s : State) : Host.Outcome State Fault Refusal :=
  complete ((s.advance 2).setX8 dst imm)

/-- MVI (ptr+c) <- k (R147). -/
def execMviStore (imm : Byte) (s : State) : Host.Outcome State Fault Refusal :=
  storeByte (opcodeOf (.mviStore imm)) imm s (s.advance 2)

end Sys2Proof.Machine
end

