-- ==== Sys2Proof/Machine/OutHalt.lean ====
section
/-! DEFINITION. OUT and HALT (42_out_halt.md). -/

namespace Sys2Proof.Machine

/-- OUT (R130). -/
def execOut (s : State) : Host.Outcome State Fault Refusal :=
  complete ((s.advance 1).appendOut s.a)

/-- HALT: consumes its own byte and stops the machine; it counts as a step (R131, R215). -/
def execHalt (s : State) : Host.Outcome State Fault Refusal :=
  complete (s.advance 1).halt

end Sys2Proof.Machine
end

