-- ==== Sys2Proof/Machine/Dispatch.lean ====
section
/-! DEFINITION. The executor's one match over the decoded instruction (R182). -/

namespace Sys2Proof.Machine

/-- The effect of a decoded instruction on the state its step began in. -/
def exec (i : Instr) (s : State) : Host.Outcome State Fault Refusal :=
  match i with
  | .halt => Sys2Proof.Machine.execHalt s
  | .out => Sys2Proof.Machine.execOut s
  | .jez target => Sys2Proof.Machine.execJez target s
  | .jnz target => Sys2Proof.Machine.execJnz target s
  | .cmp => Sys2Proof.Machine.execCmp s
  | .add => Sys2Proof.Machine.execAdd s
  | .sub => Sys2Proof.Machine.execSub s
  | .xor => Sys2Proof.Machine.execXor s
  | .aptr delta => Sys2Proof.Machine.execAptr delta s
  | .mv dst src => Sys2Proof.Machine.execMv dst src s
  | .mvLoad dst => Sys2Proof.Machine.execMvLoad dst s
  | .mvStore src => Sys2Proof.Machine.execMvStore src s
  | .mvMemMem => Sys2Proof.Machine.execMvMemMem s
  | .mvi dst imm => Sys2Proof.Machine.execMvi dst imm s
  | .mviStore imm => Sys2Proof.Machine.execMviStore imm s
  | .mv32 dst src => Sys2Proof.Machine.execMv32 dst src s
  | .mvi32 dst imm => Sys2Proof.Machine.execMvi32 dst imm s
  | .uriMvDst0 src => Sys2Proof.Machine.execUriMvDst0 src s
  | .uriMv32Dst0 src => Sys2Proof.Machine.execUriMv32Dst0 src s
  | .uriMv32Dst7 src => Sys2Proof.Machine.execUriMv32Dst7 src s
  | .uriMv32Src7 dst => Sys2Proof.Machine.execUriMv32Src7 dst s
  | .invalidLead00 low => Sys2Proof.Machine.execInvalidLead00 low s
  | .invalidLead11 low => Sys2Proof.Machine.execInvalidLead11 low s

end Sys2Proof.Machine
end

