-- ==== Sys2Proof/Machine/Fetch.lean ====
section
/-! DEFINITION. Fetching and decoding the instruction at `pc` (R95), the record of the step bound (R215), and placing
bytes in memory from outside. -/

namespace Sys2Proof.Machine

/-- `Decode()`: peek the opcode byte, classify it, then read the opcode and operand bytes, all in bounds or none. A
failure gives the fault record (R95, R202). The `pc` advance of `Fetch` is part of each meaning, which starts from the
same state. -/
def fetchInstr (s : State) : Except FaultRecord Instr :=
  match s.peekByte with
  | none => .error (accessRecord none s.pc.toNat 1 s)
  | some op =>
    match s.fetch (1 + operandCount op) with
    | none => .error (accessRecord (some op) (s.pc.toNat + 1) (operandCount op) s)
    | some (bytes, _) => .ok (decodeInstr op bytes.tail)

/-- The record of StepLimitExceeded: the instruction at `pc` was not started (R206, R215). -/
def stepLimitRecord (s : State) : FaultRecord := plainRecord .stepLimitExceeded none s

/-- The cells with bytes stored one after another from an address on. -/
def setCells : List Host.Cell → Nat → List Byte → List Host.Cell
  | cells, _, [] => cells
  | cells, o, v :: rest => setCells (setCell cells o v) (o + 1) rest

/-- A memory with bytes placed at an address from outside the machine; it is made as long as they need, up to the
largest `MEM_LEN` (R6), and bytes past that are left out. -/
def Memory.place (m : Memory) (o : Nat) (bytes : List Byte) : Memory :=
  let len := min (max m.len.val (o + bytes.length)) (Config.memLenLimit - 1)
  { len := Fin.ofNat Config.memLenLimit len, cells := setCells m.cells o (bytes.take (len - o)) }

end Sys2Proof.Machine
end

