-- ==== Sys2Proof/Machine/Step.lean ====
section
/-! DEFINITION. One step of the controller (R181). -/

namespace Sys2Proof.Machine

/-- One step: nothing from a terminal state (R33); the step bound first (R210, R215); then fetch and decode; then the
instruction (R181). -/
def step (s : State) : Host.Outcome State Fault Refusal :=
  match s.status with
  | .halted => .refused .runHalted
  | .faulted => .fault (.runFaulted s.fault)
  | .running =>
    if s.atStepLimit then raise (stepLimitRecord s) s
    else
      match fetchInstr s with
      | .error r => raise r s
      | .ok i => exec i s

/-- The state with a table word's instruction placed at `pc`, where the next step fetches; the program comes in from
outside the machine (log entry 1). -/
def State.withFetchWord (s : State) (nbits w : Nat) : State :=
  s.setMem (s.mem.place s.pc.toNat (tableBytes nbits w))

end Sys2Proof.Machine
end

