-- ==== Sys2Proof/Machine/Run.lean ====
section
/-! DEFINITION. The host's side of a run (R183, R185): construction from an image, running, and the result. -/

namespace Sys2Proof.Machine

/-- The reset state of a machine constructed from an image, refused where the image is longer than `2^32 - 1` bytes
(R39, R52, R183, decision D5; log entry 9). -/
def construct (image : List Byte) (maxSteps : Option Nat) : Option State :=
  if h : image.length < Config.memLenLimit then
    some { State.reset with mem := { len := ⟨image.length, h⟩, cells := setCells [] 0 image }, maxSteps := maxSteps }
  else none

/-- At most `k` steps of the loop `while status = Running do Step()` (R183). -/
def runFor : Nat → State → State
  | 0, s => s
  | k + 1, s =>
    match step s with
    | .next t => runFor k t
    | .fault _ => s
    | .refused _ => s

/-- What the host receives when a run is over (R183, R185). -/
inductive RunResult where
  /-- `Ok(out)`. -/
  | ok (out : List Byte)
  /-- `Error(fault)`: the record alone, none of the output (R187). -/
  | error (record : Option FaultRecord)
  deriving DecidableEq, Repr

/-- The result of a run in a terminal state; none while it is Running (R183, R187). -/
def State.result (s : State) : Option RunResult :=
  match s.status with
  | .running => none
  | .halted => some (.ok s.out)
  | .faulted => some (.error s.fault)

end Sys2Proof.Machine
end

