-- ==== Sys2Proof/Safety.lean ====
section
/-! DEFINITION. The words the statements use: what a legal state is, when a step runs an instruction, what an
instruction may change. -/

namespace Sys2Proof.Machine

/-- The refused range of a record: present exactly for OutOfBoundsAccess, of size 1 or 4, and outside a memory of `len`
bytes (R202, R206). -/
def FaultRecord.RangeOk (len : Nat) (r : FaultRecord) : Prop :=
  match r.offset, r.size with
  | some o, some n => r.cause = .outOfBoundsAccess ∧ (n = 1 ∨ n = 4) ∧ len < o.toNat + n
  | none, none => r.cause ≠ .outOfBoundsAccess
  | _, _ => False

/-- What holds of every state a run reaches. -/
structure State.Inv (s : State) : Prop where
  /-- Memory is in its canonical form. -/
  memWf : s.mem.wf = true
  /-- A record is present exactly in the Faulted state (R34). -/
  faultIff : s.fault.isSome = true ↔ s.status = .faulted
  /-- In the Faulted state `pc` is on the faulting opcode byte (R208). -/
  faultPc : ∀ r, s.fault = some r → r.pc = s.pc
  /-- A recorded range is outside memory (R202). -/
  faultRange : ∀ r, s.fault = some r → r.RangeOk s.mem.len.val
  /-- In the Halted state `pc` is just past a HALT byte (R131, R184). -/
  haltedPc : s.status = .halted → ∃ o, s.pc.toNat = o + 1 ∧ s.mem.read? o = some 0x01
  /-- At most `MAX_STEPS` instructions have completed (R215). -/
  stepBound : ∀ n, s.maxSteps = some n → s.steps ≤ n

/-- The machine is Running and its step bound is not reached, so the next step fetches. -/
def State.CanFetch (s : State) : Prop := s.status = .running ∧ s.atStepLimit = false

/-- The next step fetches, and the bytes at `pc` are the encoding of `i`, all in bounds. -/
def State.ReadyFor (s : State) (i : Instr) : Prop :=
  s.CanFetch ∧ s.mem.readRange? s.pc.toNat (instrLength i) = some (encode i)

/-- The state with one fault taken: Faulted with this record, and nothing else changed (R208). -/
def State.faultedWith (r : FaultRecord) (s : State) : State := { s with status := .faulted, fault := some r }

/-- The faults of an instruction's fetch: no opcode byte, or operand bytes past the end of memory (R110, R120, R202). -/
def FetchFaults (op : Byte) : Prop :=
  ∀ s : State, s.CanFetch →
    (s.mem.len.val ≤ s.pc.toNat ∨
      (s.mem.read? s.pc.toNat = some op ∧ s.mem.len.val < s.pc.toNat + 1 + operandCount op)) →
    ∃ t r, step s = .next t ∧ t.status = .faulted ∧ t.fault = some r ∧ r.cause = .outOfBoundsAccess

/-- The 8-bit register an instruction writes, if any (R25). -/
def writes8 : Instr → Option Reg8
  | .add | .sub | .xor => some .a
  | .cmp => some .f
  | .mv x _ | .mvLoad x | .mvi x _ => some x
  | .halt | .out | .jez _ | .jnz _ | .aptr _ | .mvStore _ | .mvMemMem | .mviStore _ | .mv32 _ _ | .mvi32 _ _ => none
  | .uriMvDst0 _ | .uriMv32Dst0 _ | .uriMv32Dst7 _ | .uriMv32Src7 _ => none
  | .invalidLead00 _ | .invalidLead11 _ => none

/-- The 32-bit register an instruction writes beside the `pc` advance, if any (R25). -/
def writes32 : Instr → Option Reg32
  | .aptr _ => some .ptr
  | .mv32 x _ | .mvi32 x _ => some x
  | .jez _ | .jnz _ => some .pc
  | .halt | .out | .cmp | .add | .sub | .xor => none
  | .mv _ _ | .mvLoad _ | .mvStore _ | .mvMemMem | .mvi _ _ | .mviStore _ => none
  | .uriMvDst0 _ | .uriMv32Dst0 _ | .uriMv32Dst7 _ | .uriMv32Src7 _ => none
  | .invalidLead00 _ | .invalidLead11 _ => none

/-- The address of the byte an instruction stores to, if it stores (R53). -/
def storesTo (i : Instr) (s : State) : Option Nat :=
  match i with
  | .mvStore _ | .mvMemMem | .mviStore _ => some s.ea
  | .halt | .out | .jez _ | .jnz _ | .cmp | .add | .sub | .xor | .aptr _ => none
  | .mv _ _ | .mvLoad _ | .mvi _ _ | .mv32 _ _ | .mvi32 _ _ => none
  | .uriMvDst0 _ | .uriMv32Dst0 _ | .uriMv32Dst7 _ | .uriMv32Src7 _ => none
  | .invalidLead00 _ | .invalidLead11 _ => none

/-- The instruction accesses data memory (R53): one of the four forms with index 7. -/
def accessesData : Instr → Bool
  | .mvLoad _ | .mvStore _ | .mvMemMem | .mviStore _ => true
  | .halt | .out | .jez _ | .jnz _ | .cmp | .add | .sub | .xor | .aptr _ => false
  | .mv _ _ | .mvi _ _ | .mv32 _ _ | .mvi32 _ _ => false
  | .uriMvDst0 _ | .uriMv32Dst0 _ | .uriMv32Dst7 _ | .uriMv32Src7 _ => false
  | .invalidLead00 _ | .invalidLead11 _ => false

/-- The fault a table row of a fault encoding raises, if the instruction is one (R90, R91). -/
def encodedFault : Instr → Option Cause
  | .uriMvDst0 _ | .uriMv32Dst0 _ | .uriMv32Dst7 _ | .uriMv32Src7 _ => some .unreachableRegisterIndex
  | .invalidLead00 _ | .invalidLead11 _ => some .invalidOpcode
  | .halt | .out | .jez _ | .jnz _ | .cmp | .add | .sub | .xor | .aptr _ => none
  | .mv _ _ | .mvLoad _ | .mvStore _ | .mvMemMem | .mvi _ _ | .mviStore _ | .mv32 _ _ | .mvi32 _ _ => none

/-- Where an instruction jumps to from a state, if it does (R124). -/
def jumpTarget (i : Instr) (s : State) : Option Word32 :=
  match i with
  | .jez t => if s.f = 0 then some t else none
  | .jnz t => if s.f = 0 then none else some t
  | .mvi32 x v => if x = .pc then some v else none
  | .mv32 x y => if x = .pc ∧ y ≠ .pc then some (s.x32 y) else none
  | .halt | .out | .cmp | .add | .sub | .xor | .aptr _ => none
  | .mv _ _ | .mvLoad _ | .mvStore _ | .mvMemMem | .mvi _ _ | .mviStore _ => none
  | .uriMvDst0 _ | .uriMv32Dst0 _ | .uriMv32Dst7 _ | .uriMv32Src7 _ => none
  | .invalidLead00 _ | .invalidLead11 _ => none

/-- The bytes that raise InvalidOpcode, as R90 lists them. -/
def isInvalidOpcode (op : Byte) : Bool :=
  let n := op.toNat
  n == 0 || (0x03 ≤ n && n ≤ 0x20) || (0x23 ≤ n && n ≤ 0x3F)
    || n == 0xC0 || (0xC5 ≤ n && n ≤ 0xE0) || (0xE2 ≤ n && n ≤ 0xFF)

/-- The bytes that raise UnreachableRegisterIndex, as R91 lists them. -/
def isUnreachableIndex (op : Byte) : Bool :=
  let n := op.toNat
  (0x40 ≤ n && n ≤ 0x47) || (0x80 ≤ n && n ≤ 0x87) || (0xB8 ≤ n && n ≤ 0xBF)
    || n == 0x8F || n == 0x97 || n == 0x9F || n == 0xA7 || n == 0xAF || n == 0xB7

end Sys2Proof.Machine
end

