-- ==== Sys2Proof/Certificates/Slice0/Obligations.lean ====
section
/-! DEFINITION. The statements for the provers. -/

open Sys2Proof Sys2Proof.Machine

/-! ### Encoding -/

/-- O1. The decoder reads back every well-formed instruction from its bytes, at every operand value, and leaves the
bytes after it (R95, R96). -/
def Obligations.DecodeOfEncodeGivesInstruction : Prop :=
  ∀ (i : Instr) (rest : List Byte), i.WellFormed → decode (encode i ++ rest) = .instr i rest

/-- O2. Whatever the decoder reads is well formed, and encoding it gives back exactly the bytes it was read from. -/
def Obligations.EncodeOfDecodeGivesBytes : Prop :=
  ∀ (bytes rest : List Byte) (i : Instr), decode bytes = .instr i rest → i.WellFormed ∧ encode i ++ rest = bytes

/-- O3. The exact-match table (R82). -/
def Obligations.ExactMatchTable : Prop :=
  ∀ (b0 b1 b2 b3 : Byte) (rest : List Byte),
    decode (0x01 :: rest) = .instr .halt rest ∧
    decode (0x02 :: rest) = .instr .out rest ∧
    decode (0xC1 :: rest) = .instr .cmp rest ∧
    decode (0xC2 :: rest) = .instr .add rest ∧
    decode (0xC3 :: rest) = .instr .sub rest ∧
    decode (0xC4 :: rest) = .instr .xor rest ∧
    decode (0x21 :: b0 :: b1 :: b2 :: b3 :: rest) = .instr (.jez (le32 b0 b1 b2 b3)) rest ∧
    decode (0x22 :: b0 :: b1 :: b2 :: b3 :: rest) = .instr (.jnz (le32 b0 b1 b2 b3)) rest ∧
    decode (0xE1 :: b0 :: rest) = .instr (.aptr b0) rest

/-- O4. How many operand bytes each opcode byte has: for the 107 valid bytes as R94 gives it, the instruction's length
being one more. That the 149 bytes which fault count 0 operand bytes, and so have length 1, is the model's choice (log
entry 5): R94 is silent on them, and the choice rests on the spec's decision D14 that they fault before any operand byte
is read (log entry 8). -/
def Obligations.OperandCountOfEveryByte : Prop :=
  (∀ op : Byte, operandCount op =
    if op ∈ ([0x21, 0x22, 0x88, 0x90, 0x98, 0xA0, 0xA8, 0xB0] : List Byte) then 4
    else if op ∈ ([0xE1, 0x48, 0x50, 0x58, 0x60, 0x68, 0x70, 0x78] : List Byte) then 1
    else 0) ∧
  ∀ i : Instr, i.WellFormed → instrLength i = 1 + operandCount (opcodeOf i) ∧ (encode i).length = instrLength i

/-- O5. A few words written out from the spec's encodings (V9, V12) decode to the instructions they stand for. They rest
on the index map D2 (log entry 6) and the byte order D3 (log entry 7). -/
def Obligations.SampleWordsDecode : Prop :=
  decode [0xC2] = .instr .add [] ∧
  decode [0x22, 0x00, 0x01, 0x00, 0x00] = .instr (.jnz 0x100) [] ∧
  decode [0xE1, 0xC8] = .instr (.aptr 200) [] ∧
  decode [0x02] = .instr .out [] ∧
  decode [0x55] = .instr (.mv .b .e) [] ∧
  decode [0x67] = .instr (.mvLoad .d) [] ∧
  decode [0x7C] = .instr (.mvStore .d) [] ∧
  decode [0x60, 0x7F] = .instr (.mvi .d 0x7F) [] ∧
  decode [0x9C] = .instr (.mv32 .lc .ld) [] ∧
  decode [0x90, 0xEF, 0xBE, 0xAD, 0xDE] = .instr (.mvi32 .lb 0xDEADBEEF) [] ∧
  decode [0x87] = .instr (.uriMv32Dst0 7) [] ∧
  decode [0x3F] = .instr (.invalidLead00 0x3F) []

/-- O6. `le32` puts the byte at the lowest address in the least significant place (R59, R86: the spec's decision D3, log
entry 7). -/
def Obligations.ImmediateIsLittleEndian : Prop :=
  ∀ b0 b1 b2 b3 : Byte,
    (le32 b0 b1 b2 b3).toNat = b0.toNat + 256 * b1.toNat + 65536 * b2.toNat + 16777216 * b3.toNat

/-! ### Reset -/

/-- O7. The reset values (R39). The zeros of the registers other than `pc` are the spec's decision D4 (log entry 2); the
empty image and the absent step bound are the model's choice (log entries 1, 4). -/
def Obligations.ResetStateValues : Prop :=
  State.reset.pc = 0 ∧ State.reset.out = [] ∧ State.reset.status = .running ∧ State.reset.fault = none ∧
  State.reset.steps = 0 ∧ (∀ r, State.reset.x8 r = 0) ∧ (∀ r, State.reset.x32 r = 0) ∧
  construct [] none = some State.reset

/-- O8. After construction from an image, memory is that image, byte for byte and no longer, and `pc` is on its first
byte (R52). -/
def Obligations.ConstructedMemoryIsImage : Prop :=
  ∀ (image : List Byte) (bound : Option Nat), image.length < 4294967296 →
    ∃ s, construct image bound = some s ∧ s.mem.len.val = image.length ∧ s.pc = 0 ∧ ∀ o, s.mem.read? o = image[o]?

/-- O9. After construction everything but memory and the step bound is as in the reset state (R39; the register values
are decision D4, log entry 2), and the invariant holds. -/
def Obligations.ConstructedStateIsReset : Prop :=
  ∀ (image : List Byte) (bound : Option Nat) (s : State), construct image bound = some s →
    s = { State.reset with mem := s.mem, maxSteps := bound } ∧ s.Inv

/-- O10. An image longer than `2^32 - 1` bytes is refused at construction (decision D5, log entry 9). -/
def Obligations.OversizedImageIsRefused : Prop :=
  ∀ (image : List Byte) (bound : Option Nat), construct image bound = none ↔ 4294967296 ≤ image.length

/-- O11. The reset state meets the invariant. -/
def Obligations.ResetMeetsInvariant : Prop := State.reset.Inv

/-! ### Memory -/

/-- O12. The bounds check of every access is `o + n <= MEM_LEN` on the whole range, and a range read gives the bytes in
address order (R54, R56). -/
def Obligations.AccessesAreBoundsChecked : Prop :=
  ∀ (m : Memory) (o n : Nat),
    (m.readRange? o n = none ↔ m.len.val < o + n) ∧
    (∀ bytes, m.readRange? o n = some bytes → bytes.length = n ∧ ∀ k, k < n → bytes[k]? = m.read? (o + k)) ∧
    (m.read? o = none ↔ m.len.val < o + 1) ∧
    (∀ v, m.write? o v = none ↔ m.len.val < o + 1)

/-- O13. A byte write is seen by a read of that byte, changes no other byte and not the length (R57). The canonical form
of memory is the model's own (log entry 3). -/
def Obligations.ByteWriteThenRead : Prop :=
  ∀ (m m' : Memory) (o : Nat) (v : Byte), m.wf = true → m.write? o v = some m' →
    m'.len = m.len ∧ m'.read? o = some v ∧ ∀ q, q ≠ o → m'.read? q = m.read? q

/-- O14. `Fetch(n)` gives the bytes at `pc`, moves `pc` past them without wrapping and changes nothing else; out of
bounds it gives nothing (R28, R30, R56). -/
def Obligations.FetchMovesPcPastBytes : Prop :=
  ∀ (s : State) (n : Nat),
    (s.fetch n = none ↔ s.mem.len.val < s.pc.toNat + n) ∧
    ∀ bytes t, s.fetch n = some (bytes, t) →
      s.mem.readRange? s.pc.toNat n = some bytes ∧ t = { s with pc := t.pc } ∧ t.pc.toNat = s.pc.toNat + n

/-! ### The ALU -/

/-- O15. ADD (R111). -/
def Obligations.AddIsSumModulo255 : Prop :=
  (∀ rest, decode (0xC2 :: rest) = .instr .add rest) ∧
  FetchFaults 0xC2 ∧
  ∀ s : State, ∃ t, exec .add s = .next t ∧
    t = { s with a := t.a, pc := s.pc + 1, steps := s.steps + 1 } ∧
    t.a.toNat = (s.a.toNat + s.b.toNat) % 255

/-- O16. SUB (R112). -/
def Obligations.SubCorrectsNegativeBy255 : Prop :=
  (∀ rest, decode (0xC3 :: rest) = .instr .sub rest) ∧
  FetchFaults 0xC3 ∧
  ∀ s : State, ∃ t, exec .sub s = .next t ∧
    t = { s with a := t.a, pc := s.pc + 1, steps := s.steps + 1 } ∧
    (t.a.toNat : Int) =
      if (s.a.toNat : Int) - s.b.toNat < 0 then (s.a.toNat : Int) - s.b.toNat + 255 else (s.a.toNat : Int) - s.b.toNat

/-- O17. XOR, bit by bit (R113). -/
def Obligations.XorIsBitwise : Prop :=
  (∀ rest, decode (0xC4 :: rest) = .instr .xor rest) ∧
  FetchFaults 0xC4 ∧
  ∀ s : State, ∃ t, exec .xor s = .next t ∧
    t = { s with a := t.a, pc := s.pc + 1, steps := s.steps + 1 } ∧
    ∀ k, t.a.getLsbD k = Bool.xor (s.a.getLsbD k) (s.b.getLsbD k)

/-- O18. CMP overwrites the whole of `f` with 0 or 1 (R114). -/
def Obligations.CmpWritesEqualityFlag : Prop :=
  (∀ rest, decode (0xC1 :: rest) = .instr .cmp rest) ∧
  FetchFaults 0xC1 ∧
  ∀ s : State, ∃ t, exec .cmp s = .next t ∧
    t = { s with f := t.f, pc := s.pc + 1, steps := s.steps + 1 } ∧
    (s.a = s.b → t.f = 0) ∧ (s.a ≠ s.b → t.f = 1)

/-- O19. SUB undoes ADD, and ADD undoes SUB, exactly where `a` was not 255; where it was, SUB after ADD gives 0 (the law
the spec derives in R115). -/
def Obligations.AddAndSubAreInverse : Prop :=
  ∀ s t u v w : State,
    exec .add s = .next t → exec .sub t = .next u → exec .sub s = .next v → exec .add v = .next w →
      (s.a ≠ 255 → u.a = s.a ∧ w.a = s.a) ∧ (s.a = 255 → u.a = 0 ∧ w.a ≠ s.a)

/-- O20. ADD never yields 255, and SUB yields it only from 255 - 0 (the ranges the spec derives in R42). -/
def Obligations.AluResultRanges : Prop :=
  (∀ s t : State, exec .add s = .next t → t.a ≠ 255) ∧
  ∀ s t : State, exec .sub s = .next t → (t.a = 255 ↔ s.a = 255 ∧ s.b = 0)

/-! ### Pointer increment and jumps -/

/-- O21. APTR adds its unsigned byte to `ptr` (R121); past `2^32` the sum wraps, which is the spec's decision D6 (log
entry 11). -/
def Obligations.AptrAddsUnsignedByte : Prop :=
  (∀ k rest, decode (0xE1 :: k :: rest) = .instr (.aptr k) rest) ∧
  ∀ (k : Byte) (s : State), ∃ t, exec (.aptr k) s = .next t ∧
    t = { s with ptr := t.ptr, pc := s.pc + 2, steps := s.steps + 1 } ∧
    t.ptr.toNat = (s.ptr.toNat + k.toNat) % 2 ^ 32

/-- O22. JEZ jumps exactly when the whole byte `f` is 0, to any target, and else falls through (R122). -/
def Obligations.JezJumpsOnZeroFlag : Prop :=
  (∀ b0 b1 b2 b3 rest, decode (0x21 :: b0 :: b1 :: b2 :: b3 :: rest) = .instr (.jez (le32 b0 b1 b2 b3)) rest) ∧
  FetchFaults 0x21 ∧
  ∀ (target : Word32) (s : State),
    (s.f = 0 → exec (.jez target) s = .next { s with pc := target, steps := s.steps + 1 }) ∧
    (s.f ≠ 0 → exec (.jez target) s = .next { s with pc := s.pc + 5, steps := s.steps + 1 })

/-- O23. JNZ jumps exactly when `f` is not 0 (R123). -/
def Obligations.JnzJumpsOnNonzeroFlag : Prop :=
  (∀ b0 b1 b2 b3 rest, decode (0x22 :: b0 :: b1 :: b2 :: b3 :: rest) = .instr (.jnz (le32 b0 b1 b2 b3)) rest) ∧
  FetchFaults 0x22 ∧
  ∀ (target : Word32) (s : State),
    (s.f ≠ 0 → exec (.jnz target) s = .next { s with pc := target, steps := s.steps + 1 }) ∧
    (s.f = 0 → exec (.jnz target) s = .next { s with pc := s.pc + 5, steps := s.steps + 1 })

/-! ### Output and halt -/

/-- O24. OUT appends the byte in `a` (R130). -/
def Obligations.OutAppendsAccumulator : Prop :=
  (∀ rest, decode (0x02 :: rest) = .instr .out rest) ∧
  FetchFaults 0x02 ∧
  ∀ s : State, exec .out s = .next { s with out := s.out ++ [s.a], pc := s.pc + 1, steps := s.steps + 1 }

/-- O25. HALT consumes its own byte and stops the machine; no step follows (R131). -/
def Obligations.HaltStopsTheMachine : Prop :=
  (∀ rest, decode (0x01 :: rest) = .instr .halt rest) ∧
  FetchFaults 0x01 ∧
  ∀ s : State, ∃ t, exec .halt s = .next t ∧
    t = { s with status := .halted, pc := s.pc + 1, steps := s.steps + 1 } ∧ ∀ u, step t ≠ .next u

/-! ### 8-bit moves, loads and stores -/

/-- O26. MV between two 8-bit registers (R142). -/
def Obligations.MvMovesRegister : Prop :=
  (∀ x y rest, decode ((0x40 + 8 * (indexOfReg8 x).setWidth 8 + (indexOfReg8 y).setWidth 8) :: rest)
    = .instr (.mv x y) rest) ∧
  (∀ x y, FetchFaults (opcodeOf (.mv x y))) ∧
  ∀ (x y : Reg8) (s : State), ∃ t, exec (.mv x y) s = .next t ∧
    t.x8 x = s.x8 y ∧ (∀ r, r ≠ x → t.x8 r = s.x8 r) ∧
    t = { s with a := t.a, b := t.b, c := t.c, d := t.d, e := t.e, f := t.f, pc := s.pc + 1, steps := s.steps + 1 }

/-- O27. MV load: the byte at `ea`, formed with the old `c`, goes to the register; an `ea` outside memory raises
OutOfBoundsAccess for that byte and writes nothing (R143). -/
def Obligations.MvLoadsByteAtEffectiveAddress : Prop :=
  (∀ x rest, decode ((0x40 + 8 * (indexOfReg8 x).setWidth 8 + 7) :: rest) = .instr (.mvLoad x) rest) ∧
  (∀ x, FetchFaults (opcodeOf (.mvLoad x))) ∧
  ∀ (x : Reg8) (s : State),
    (∀ v, s.mem.read? s.ea = some v → ∃ t, exec (.mvLoad x) s = .next t ∧
      t.x8 x = v ∧ (∀ r, r ≠ x → t.x8 r = s.x8 r) ∧
      t = { s with a := t.a, b := t.b, c := t.c, d := t.d, e := t.e, f := t.f, pc := s.pc + 1, steps := s.steps + 1 }) ∧
    (s.mem.len.val ≤ s.ea → ∃ t r, exec (.mvLoad x) s = .next t ∧ t.status = .faulted ∧ t.fault = some r ∧
      t.mem = s.mem ∧ (∀ q, t.x8 q = s.x8 q) ∧ r.cause = .outOfBoundsAccess ∧ r.offset = some (BitVec.ofNat 33 s.ea) ∧ r.size = some 1) ∧
    (s.ea < s.mem.len.val → s.mem.read? s.ea ≠ none)

/-- O28. MV store: exactly the byte at `ea` changes, to the register's value, and no register but `pc`; a load straight
after it gives that value in any register, `c` among them; an `ea` outside memory raises OutOfBoundsAccess for that byte
and leaves memory as it was (R144). -/
def Obligations.MvStoresByteAtEffectiveAddress : Prop :=
  (∀ y rest, decode ((0x78 + (indexOfReg8 y).setWidth 8) :: rest) = .instr (.mvStore y) rest) ∧
  (∀ y, FetchFaults (opcodeOf (.mvStore y))) ∧
  ∀ (y : Reg8) (s : State), s.mem.wf = true →
    (s.ea < s.mem.len.val → ∃ t, exec (.mvStore y) s = .next t ∧
      t = { s with mem := t.mem, pc := s.pc + 1, steps := s.steps + 1 } ∧
      t.mem.len = s.mem.len ∧ t.mem.read? s.ea = some (s.x8 y) ∧ (∀ o, o ≠ s.ea → t.mem.read? o = s.mem.read? o) ∧
      ∀ x, ∃ u, exec (.mvLoad x) t = .next u ∧ u.x8 x = s.x8 y) ∧
    (s.mem.len.val ≤ s.ea → ∃ t r, exec (.mvStore y) s = .next t ∧ t.status = .faulted ∧ t.fault = some r ∧
      t.mem = s.mem ∧ (∀ q, t.x8 q = s.x8 q) ∧ r.cause = .outOfBoundsAccess ∧ r.offset = some (BitVec.ofNat 33 s.ea) ∧ r.size = some 1)

/-- O29. MV memory to memory changes nothing but `pc` where it succeeds (the form the spec derives in R145). -/
def Obligations.MvMemoryToMemoryRewritesByte : Prop :=
  (∀ rest, decode (0x7F :: rest) = .instr .mvMemMem rest) ∧
  ∀ s : State, s.mem.wf = true → s.ea < s.mem.len.val →
    exec .mvMemMem s = .next { s with pc := s.pc + 1, steps := s.steps + 1 }

/-- O30. MVI to an 8-bit register (R146). -/
def Obligations.MviWritesImmediate : Prop :=
  (∀ x k rest, decode ((0x40 + 8 * (indexOfReg8 x).setWidth 8) :: k :: rest) = .instr (.mvi x k) rest) ∧
  (∀ x k, FetchFaults (opcodeOf (.mvi x k))) ∧
  ∀ (x : Reg8) (k : Byte) (s : State), ∃ t, exec (.mvi x k) s = .next t ∧
    t.x8 x = k ∧ (∀ r, r ≠ x → t.x8 r = s.x8 r) ∧
    t = { s with a := t.a, b := t.b, c := t.c, d := t.d, e := t.e, f := t.f, pc := s.pc + 2, steps := s.steps + 1 }

/-- O31. MVI to memory: exactly the byte at `ea` changes, to the immediate (the form the spec derives in R147). -/
def Obligations.MviStoresImmediate : Prop :=
  (∀ k rest, decode (0x78 :: k :: rest) = .instr (.mviStore k) rest) ∧
  ∀ (k : Byte) (s : State), s.mem.wf = true → s.ea < s.mem.len.val → ∃ t, exec (.mviStore k) s = .next t ∧
    t = { s with mem := t.mem, pc := s.pc + 2, steps := s.steps + 1 } ∧
    t.mem.len = s.mem.len ∧ t.mem.read? s.ea = some k ∧ ∀ o, o ≠ s.ea → t.mem.read? o = s.mem.read? o

/-- O32. A store is seen by the fetch of the very next instruction: storing a HALT byte over it halts the machine (the
coherence the spec derives in R66). -/
def Obligations.StoreIsSeenByNextFetch : Prop :=
  ∀ (y : Reg8) (s t : State), s.mem.wf = true → s.ReadyFor (.mvStore y) → s.x8 y = 0x01 →
    s.ea = s.pc.toNat + 1 → s.ea < s.mem.len.val → step s = .next t → t.CanFetch →
      step t = .next { t with status := .halted, pc := t.pc + 1, steps := t.steps + 1 }

/-! ### 32-bit moves -/

/-- O33. MV32: the source is read with `pc` already advanced, and a write to `pc` replaces the advance (R161, R163,
R164; the value read from `pc` is the spec's decision D16, log entry 12). -/
def Obligations.Mv32MovesRegister : Prop :=
  (∀ x y rest, decode ((0x80 + 8 * (indexOfReg32 x).setWidth 8 + (indexOfReg32 y).setWidth 8) :: rest)
    = .instr (.mv32 x y) rest) ∧
  ∀ (x y : Reg32) (s : State), ∃ t, exec (.mv32 x y) s = .next t ∧
    t.x32 x = (if y = .pc then s.pc + 1 else s.x32 y) ∧
    (∀ r, r ≠ x → t.x32 r = if r = .pc then s.pc + 1 else s.x32 r) ∧
    t = { s with la := t.la, lb := t.lb, lc := t.lc, ld := t.ld, ptr := t.ptr, pc := t.pc, steps := s.steps + 1 }

/-- O34. MVI32: the immediate goes to the register; a write to `pc` replaces the advance (R162). -/
def Obligations.Mvi32WritesImmediate : Prop :=
  (∀ x b0 b1 b2 b3 rest, decode ((0x80 + 8 * (indexOfReg32 x).setWidth 8) :: b0 :: b1 :: b2 :: b3 :: rest)
    = .instr (.mvi32 x (le32 b0 b1 b2 b3)) rest) ∧
  (∀ x v, FetchFaults (opcodeOf (.mvi32 x v))) ∧
  ∀ (x : Reg32) (v : Word32) (s : State), ∃ t, exec (.mvi32 x v) s = .next t ∧
    t.x32 x = v ∧ (∀ r, r ≠ x → t.x32 r = if r = .pc then s.pc + 5 else s.x32 r) ∧
    t = { s with la := t.la, lb := t.lb, lc := t.lc, ld := t.ld, ptr := t.ptr, pc := t.pc, steps := s.steps + 1 }

/-! ### Faults -/

/-- O35. A step raises InvalidOpcode exactly for the 119 bytes of R90, names the byte and its offset, and consumes
nothing (R90, R201). -/
def Obligations.InvalidOpcodeBytesFault : Prop :=
  ∀ (s : State) (op : Byte), s.CanFetch → s.mem.read? s.pc.toNat = some op →
    (isInvalidOpcode op = true ↔ ∃ t r, step s = .next t ∧ t.status = .faulted ∧ t.fault = some r ∧
      r.cause = .invalidOpcode ∧ r.opcode = some op ∧ r.pc = s.pc ∧ t.pc = s.pc)

/-- O36. A step raises UnreachableRegisterIndex exactly for the 30 bytes of R91, whatever follows the byte, and changes
no other state (R91, R165, R203, R208). That no operand byte is read first is the spec's decision D14 (R165 says so too of
the 22 bytes of the MV32 family, and of 0x40 to 0x47 only R203 does), and that no state changes is its decision D8 (log
entry 8). -/
def Obligations.UnreachableIndexBytesFault : Prop :=
  ∀ (s : State) (op : Byte), s.CanFetch → s.mem.read? s.pc.toNat = some op →
    (isUnreachableIndex op = true ↔ ∃ t r, step s = .next t ∧ t = { s with status := .faulted, fault := some r } ∧
      r.cause = .unreachableRegisterIndex ∧ r.opcode = some op ∧ r.pc = s.pc)

/-- O37. Executing a fault encoding takes its fault: the record names the opcode byte and its offset and no range, and
nothing else changes (R200, R201, R203, R206 to R208; the record's fields are decision D10, the unchanged state D8, log
entry 8). -/
def Obligations.FaultEncodingsTakeTheirFault : Prop :=
  ∀ (s : State) (i : Instr) (cause : Cause), encodedFault i = some cause →
    exec i s = .next { s with
      status := .faulted
      fault := some { cause := cause, pc := s.pc, opcode := some (opcodeOf i), offset := none, size := none } }

/-- O38. A fetch outside memory faults before anything runs: the opcode byte first, then the whole operand range, with
the range recorded (R202, R210; the record is decision D10 and the order D9, D14, log entry 8). -/
def Obligations.FetchOutsideMemoryFaults : Prop :=
  ∀ s : State, s.CanFetch →
    (s.mem.len.val ≤ s.pc.toNat → step s = .next (s.faultedWith
      { cause := .outOfBoundsAccess, pc := s.pc, opcode := none, offset := some (BitVec.ofNat 33 s.pc.toNat)
        size := some 1 })) ∧
    ∀ op, s.mem.read? s.pc.toNat = some op → s.mem.len.val < s.pc.toNat + 1 + operandCount op →
      step s = .next (s.faultedWith
        { cause := .outOfBoundsAccess, pc := s.pc, opcode := some op
          offset := some (BitVec.ofNat 33 (s.pc.toNat + 1)), size := some (operandCount op) })

/-- O39. A data access at `ptr + c` outside memory faults, with the unwrapped sum recorded, for each of the four forms
with index 7 (R58, R202; the sum's width is decision D7, log entry 10; the record D10, log entry 8). -/
def Obligations.DataAccessOutsideMemoryFaults : Prop :=
  ∀ (i : Instr) (s : State), accessesData i = true → s.mem.len.val ≤ s.ptr.toNat + s.c.toNat →
    ∃ t r, exec i s = .next t ∧ t = s.faultedWith r ∧ r.cause = .outOfBoundsAccess ∧ r.pc = s.pc ∧
      r.opcode = some (opcodeOf i) ∧ r.size = some 1 ∧ r.offset.map BitVec.toNat = some (s.ptr.toNat + s.c.toNat)

/-- O40. At the step bound the next step raises StepLimitExceeded before fetching; below it, or without a bound, no step
does (R215: the spec's decision D11, log entry 4). -/
def Obligations.StepLimitIsExact : Prop :=
  ∀ s : State, s.status = .running →
    (s.atStepLimit = true ↔ ∃ n, s.maxSteps = some n ∧ n ≤ s.steps) ∧
    (s.atStepLimit = true → step s = .next (s.faultedWith
      { cause := .stepLimitExceeded, pc := s.pc, opcode := none, offset := none, size := none })) ∧
    (s.atStepLimit = false → ∀ t r, step s = .next t → t.status = .faulted → t.fault = some r →
      r.cause ≠ .stepLimitExceeded)

/-- O41. Faults are precise: a step that faults changes nothing but `status` and `fault`, and the record's `pc` is the
offset the step began at (R206 to R208: the spec's decision D8, log entry 8). -/
def Obligations.FaultsArePrecise : Prop :=
  ∀ s t : State, step s = .next t → t.status = .faulted → ∃ r, t = s.faultedWith r ∧ r.pc = s.pc

/-- O42. What an executed instruction can fault on: its own encoding, or a data access outside memory, and nothing
else (R204, R205). -/
def Obligations.OnlyTheseInstructionsFault : Prop :=
  ∀ (i : Instr) (s t : State), s.status ≠ .faulted → exec i s = .next t →
    (t.status = .faulted ↔ encodedFault i ≠ none ∨ (accessesData i = true ∧ s.mem.len.val ≤ s.ea))

/-! ### The step -/

/-- O43. When the bytes at `pc` are those of a well-formed instruction, the step is that instruction's execution on the
very same state; it adds nothing (R181, R182). -/
def Obligations.StepRunsDecodedInstruction : Prop :=
  ∀ (s : State) (i : Instr), i.WellFormed → s.ReadyFor i → step s = exec i s

/-- O44. The controller's transitions (R33): construction gives Running; no instruction reads the status; from Running a
step is always possible and ends Halted exactly on a HALT, Faulted exactly where it fills the fault record, and Running
otherwise; from Halted or Faulted there is no step. That no record is there before is part of the invariant. That a step
is always possible from Running is R262 (the spec's decision D19); that a HALT at the step bound does not halt is R215
(its decision D11, log entry 4). -/
def Obligations.StatusTransitions : Prop :=
  (∀ image bound s, construct image bound = some s → s.status = .running) ∧
  (∀ (i : Instr) (s t : State) (other : Status), exec i s = .next t →
    ∃ status, exec i { s with status := other } = .next { t with status := status }) ∧
  ∀ s : State,
    (s.status = .running → ∃ t, step s = .next t ∧
      (t.status = .halted ↔ s.atStepLimit = false ∧ s.mem.read? s.pc.toNat = some 0x01) ∧
      (s.fault = none → (t.status = .faulted ↔ t.fault ≠ none))) ∧
    (s.status ≠ .running → ∀ t, step s ≠ .next t)

/-- O45. Every step keeps the invariant: memory canonical, a record exactly in Faulted, `pc` on the faulting byte, a
recorded range outside memory, `pc` just past a HALT byte in Halted, the step bound respected. The record and the
precise state are decisions D8 and D10 (log entry 8), the bound D11 (log entry 4), the canonical form the model's own
(log entry 3). -/
def Obligations.StepKeepsInvariant : Prop :=
  ∀ s t : State, s.Inv → step s = .next t → t.Inv

/-- O46. Every way `pc` can change: past the instruction, or to a jump's target; a fault leaves it (R124, R208). -/
def Obligations.PcAfterEveryInstruction : Prop :=
  ∀ (i : Instr) (s t : State), s.status = .running → exec i s = .next t →
    (t.status ≠ .faulted → t.pc = (jumpTarget i s).getD (s.pc + BitVec.ofNat 32 (instrLength i))) ∧
    (t.status = .faulted → t.pc = s.pc)

/-- O47. The `pc` advance never wraps around: after a step that neither jumps nor faults it is the old `pc` plus the
length, and at most `MEM_LEN` (the fact the spec derives in R30). -/
def Obligations.PcAdvanceNeverWraps : Prop :=
  ∀ (i : Instr) (s t : State), i.WellFormed → s.ReadyFor i → step s = .next t → t.status ≠ .faulted →
    jumpTarget i s = none → t.pc.toNat = s.pc.toNat + instrLength i ∧ t.pc.toNat ≤ s.mem.len.val

/-! ### Frames -/

/-- O48. No 8-bit register changes but the one the access matrix names (R25). -/
def Obligations.EightBitRegisterFrame : Prop :=
  ∀ (i : Instr) (s t : State) (r : Reg8), exec i s = .next t → writes8 i ≠ some r → t.x8 r = s.x8 r

/-- O49. No 32-bit register but `pc` changes but the one the access matrix names (R25). -/
def Obligations.ThirtyTwoBitRegisterFrame : Prop :=
  ∀ (i : Instr) (s t : State) (r : Reg32), exec i s = .next t → r ≠ .pc → writes32 i ≠ some r → t.x32 r = s.x32 r

/-- O50. No byte of memory changes but the one stored to, and its length never (R25, R53, R57). The canonical form is
the model's own (log entry 3). -/
def Obligations.MemoryFrame : Prop :=
  ∀ (i : Instr) (s t : State), s.mem.wf = true → exec i s = .next t →
    t.mem.len = s.mem.len ∧ ∀ o, storesTo i s ≠ some o → t.mem.read? o = s.mem.read? o

/-- O51. The controller's own state: the output changes by OUT alone, the step bound never, and the step count and the
fault record as the instruction completes or faults (R25, R32, R35, R181). -/
def Obligations.ControllerStateFrame : Prop :=
  ∀ (i : Instr) (s t : State), exec i s = .next t →
    t.out = (if i = .out then s.out ++ [s.a] else s.out) ∧ t.maxSteps = s.maxSteps ∧
    (s.status = .running → t.steps = (if t.status = .faulted then s.steps else s.steps + 1)) ∧
    (s.status = .running → t.status ≠ .faulted → t.fault = s.fault)

/-- O52. Over any step, `MEM_LEN` and the step bound stay, and the output only grows, by at most one byte (R42, R32,
R38). -/
def Obligations.OutputOnlyGrows : Prop :=
  ∀ s t : State, step s = .next t →
    t.mem.len = s.mem.len ∧ t.maxSteps = s.maxSteps ∧ (t.out = s.out ∨ t.out = s.out ++ [s.a])

/-! ### Isolation -/

/-- O53. No instruction reads the output: with other bytes before it, the same step appends the same (R32). -/
def Obligations.OutputIsNeverRead : Prop :=
  ∀ (i : Instr) (s t : State) (before : List Byte), exec i s = .next t →
    exec i { s with out := before ++ s.out } = .next { t with out := before ++ t.out }

/-- O54. No instruction reads the step count or the step bound (R35, R215, R221). -/
def Obligations.StepCountIsNeverRead : Prop :=
  ∀ (i : Instr) (s t : State) (extra : Nat) (bound : Option Nat), exec i s = .next t →
    exec i { s with steps := extra + s.steps, maxSteps := bound }
      = .next { t with steps := extra + t.steps, maxSteps := bound }

/-- O55. By any one instruction the value of `la`, `lb`, `lc` or `ld` reaches no 8-bit register, no byte of memory and
no byte of output: two states that differ in those four registers alone give the same of each after it (R148, R149). It
says this of one instruction, not of a run: the value may reach `ptr` or `pc` by an MV32, and a later instruction
addresses or fetches through those. -/
def Obligations.WideRegistersDoNotLeak : Prop :=
  ∀ (i : Instr) (s t : State) (va vb vc vd : Word32), exec i s = .next t →
    ∃ t', exec i { s with la := va, lb := vb, lc := vc, ld := vd } = .next t' ∧
      (∀ r, t'.x8 r = t.x8 r) ∧ t'.mem = t.mem ∧ t'.out = t.out ∧ t'.status = t.status ∧ t'.fault = t.fault

/-! ### The run -/

/-- O56. With a step bound `n`, a run ends within what is left of the bound and one step more, with at most `n`
instructions completed (R215: the spec's decision D11, log entry 4). -/
def Obligations.BoundedRunEnds : Prop :=
  ∀ (s : State) (n : Nat), s.maxSteps = some n → s.steps ≤ n →
    (runFor (n - s.steps + 1) s).status ≠ .running ∧ (runFor (n - s.steps + 1) s).steps ≤ n

/-- O57. What the host receives: nothing while Running, the output at Halted, the record alone at Faulted, whatever the
output then holds (R183; that the output of a faulted run is withheld is decision D15). -/
def Obligations.HostReceivesResult : Prop :=
  ∀ s : State, (s.result = none ↔ s.status = .running) ∧
    (∀ bytes, s.result = some (.ok bytes) ↔ s.status = .halted ∧ s.out = bytes) ∧
    (∀ record, s.result = some (.error record) ↔ s.status = .faulted ∧ s.fault = record)
end

