-- ==== Sys2Proof/Laws/Alu.lean ====
section
/-! SUPPORT. The ALU's results as numbers. -/

namespace Sys2Proof.Machine

/-- The number ADD computes. -/
theorem aluAdd_toNat (x y : Byte) : (aluAdd x y).toNat = (x.toNat + y.toNat) % aluModulus := by
  simp only [aluAdd, aluModulus, BitVec.toNat_ofNat]
  omega

/-- The number SUB computes. -/
theorem aluSub_toNat (x y : Byte) :
    ((aluSub x y).toNat : Int)
      = if (x.toNat : Int) - y.toNat < 0 then (x.toNat : Int) - y.toNat + aluModulus else (x.toNat : Int) - y.toNat := by
  have := x.isLt
  have := y.isLt
  simp only [aluSub, aluModulus, BitVec.toNat_ofInt]
  split <;> omega

/-- The jumps' test as a proposition. -/
@[simp] theorem flagIsZero_iff (f : Byte) : flagIsZero f = true ↔ f = 0 := by simp [flagIsZero]

end Sys2Proof.Machine
end

