-- ==== Sys2Proof/Laws/PerInstr.lean ====
section
/-! SUPPORT. The encoded length, instruction by instruction: the decoder expects after the opcode byte as many operand
bytes as the encoder writes (R81, R94). -/

namespace Sys2Proof.Laws.EncodedLength

/-- The opcode byte announces the operand bytes the encoder writes. -/
def Statement (i : Instr) : Prop := i.WellFormed → operandCount (opcodeOf i) = (operandsOf i).length

theorem halt : Statement .halt := fun _ => rfl
theorem out : Statement .out := fun _ => rfl
theorem jez (target : Word32) : Statement (.jez target) := fun _ => rfl
theorem jnz (target : Word32) : Statement (.jnz target) := fun _ => rfl
theorem cmp : Statement .cmp := fun _ => rfl
theorem add : Statement .add := fun _ => rfl
theorem sub : Statement .sub := fun _ => rfl
theorem xor : Statement .xor := fun _ => rfl
theorem aptr (delta : Byte) : Statement (.aptr delta) := fun _ => rfl
theorem mv (dst src : Reg8) : Statement (.mv dst src) := fun _ => by cases dst <;> cases src <;> rfl
theorem mvLoad (dst : Reg8) : Statement (.mvLoad dst) := fun _ => by cases dst <;> rfl
theorem mvStore (src : Reg8) : Statement (.mvStore src) := fun _ => by cases src <;> rfl
theorem mvMemMem : Statement .mvMemMem := fun _ => rfl
theorem mvi (dst : Reg8) (imm : Byte) : Statement (.mvi dst imm) := fun _ => by
  change operandCount (opcodeOf (.mvi dst 0)) = 1
  cases dst <;> decide
theorem mviStore (imm : Byte) : Statement (.mviStore imm) := fun _ => by
  change operandCount (opcodeOf (.mviStore 0)) = 1
  decide
theorem mv32 (dst src : Reg32) : Statement (.mv32 dst src) := fun _ => by cases dst <;> cases src <;> rfl
theorem mvi32 (dst : Reg32) (imm : Word32) : Statement (.mvi32 dst imm) := fun _ => by
  change operandCount (opcodeOf (.mvi32 dst 0)) = 4
  cases dst <;> decide
theorem uriMvDst0 (src : BitVec 3) : Statement (.uriMvDst0 src) := by unfold Statement; revert src; decide
theorem uriMv32Dst0 (src : BitVec 3) : Statement (.uriMv32Dst0 src) := by unfold Statement; revert src; decide
theorem uriMv32Dst7 (src : BitVec 3) : Statement (.uriMv32Dst7 src) := by unfold Statement; revert src; decide
theorem uriMv32Src7 (dst : Reg32) : Statement (.uriMv32Src7 dst) := fun _ => by cases dst <;> rfl
theorem invalidLead00 (low : BitVec 6) : Statement (.invalidLead00 low) := by unfold Statement; revert low; decide
theorem invalidLead11 (low : BitVec 6) : Statement (.invalidLead11 low) := by unfold Statement; revert low; decide

end Sys2Proof.Laws.EncodedLength
end

