-- ==== Sys2Proof/Laws/Decode.lean ====
section
/-! SUPPORT. The immediates and the operand counts: the facts the round trips between bytes and instructions rest on. -/

namespace Sys2Proof

/-- Reading back the four bytes of an immediate. -/
theorem le32_le32Bytes (v : Word32) :
    le32 (v.extractLsb' 0 8) (v.extractLsb' 8 8) (v.extractLsb' 16 8) (v.extractLsb' 24 8) = v := by
  apply BitVec.eq_of_toNat_eq
  have := v.isLt
  simp only [le32, BitVec.extractLsb'_toNat, BitVec.toNat_ofNat, Nat.shiftRight_eq_div_pow]
  omega

/-- The bytes of an immediate that was read from four bytes. -/
theorem le32Bytes_le32 (b0 b1 b2 b3 : Byte) : le32Bytes (le32 b0 b1 b2 b3) = [b0, b1, b2, b3] := by
  have := b0.isLt
  have := b1.isLt
  have := b2.isLt
  have := b3.isLt
  simp only [le32Bytes, le32, List.cons.injEq, and_true]
  refine ⟨?_, ?_, ?_, ?_⟩ <;> apply BitVec.eq_of_toNat_eq <;>
    simp only [BitVec.extractLsb'_toNat, BitVec.toNat_ofNat, Nat.shiftRight_eq_div_pow] <;> omega

/-- The decoder's `imm32` of the encoder's bytes. -/
@[simp] theorem imm32Of_le32Bytes (v : Word32) : imm32Of (le32Bytes v) = v := le32_le32Bytes v

/-- The decoder's `imm32` of four bytes. -/
@[simp] theorem imm32Of_four (b0 b1 b2 b3 : Byte) : imm32Of [b0, b1, b2, b3] = le32 b0 b1 b2 b3 := rfl

/-- The decoder's `imm8` of one byte. -/
@[simp] theorem imm8Of_one (b0 : Byte) : imm8Of [b0] = b0 := rfl

/-- The opcode byte of a well-formed instruction announces its operand bytes. -/
theorem operandCount_opcodeOf (i : Instr) (h : i.WellFormed) : operandCount (opcodeOf i) = (operandsOf i).length := by
  cases i with
  | halt => exact Laws.EncodedLength.halt h
  | out => exact Laws.EncodedLength.out h
  | jez x => exact Laws.EncodedLength.jez x h
  | jnz x => exact Laws.EncodedLength.jnz x h
  | cmp => exact Laws.EncodedLength.cmp h
  | add => exact Laws.EncodedLength.add h
  | sub => exact Laws.EncodedLength.sub h
  | xor => exact Laws.EncodedLength.xor h
  | aptr x => exact Laws.EncodedLength.aptr x h
  | mv x y => exact Laws.EncodedLength.mv x y h
  | mvLoad x => exact Laws.EncodedLength.mvLoad x h
  | mvStore x => exact Laws.EncodedLength.mvStore x h
  | mvMemMem => exact Laws.EncodedLength.mvMemMem h
  | mvi x y => exact Laws.EncodedLength.mvi x y h
  | mviStore x => exact Laws.EncodedLength.mviStore x h
  | mv32 x y => exact Laws.EncodedLength.mv32 x y h
  | mvi32 x y => exact Laws.EncodedLength.mvi32 x y h
  | uriMvDst0 x => exact Laws.EncodedLength.uriMvDst0 x h
  | uriMv32Dst0 x => exact Laws.EncodedLength.uriMv32Dst0 x h
  | uriMv32Dst7 x => exact Laws.EncodedLength.uriMv32Dst7 x h
  | uriMv32Src7 x => exact Laws.EncodedLength.uriMv32Src7 x h
  | invalidLead00 x => exact Laws.EncodedLength.invalidLead00 x h
  | invalidLead11 x => exact Laws.EncodedLength.invalidLead11 x h

end Sys2Proof
end

