-- ==== Sys2Proof/Laws/Memory.lean ====
section
/-! SUPPORT. Memory: the cell list keeps its canonical form under every operation, and reads see the last write. -/

namespace Sys2Proof.Machine

theorem cellsWf_cons {len lo k : Nat} {w : Byte} {rest : List Host.Cell} :
    cellsWf len lo ((k, w) :: rest) = true ↔ lo ≤ k ∧ k < len ∧ w ≠ unlistedByte ∧ cellsWf len (k + 1) rest = true := by
  simp [cellsWf, and_assoc]

/-- A list that starts no lower than `lo` starts no lower than anything below `lo`. -/
theorem cellsWf_mono {len lo lo' : Nat} (cells : List Host.Cell) (h : lo' ≤ lo) (hw : cellsWf len lo cells = true) :
    cellsWf len lo' cells = true := by
  cases cells with
  | nil => rfl
  | cons x rest =>
    obtain ⟨k, w⟩ := x
    rw [cellsWf_cons] at hw ⊢
    exact ⟨by omega, hw.2⟩

/-- A longer memory admits the same cells. -/
theorem cellsWf_len_mono {len len' : Nat} (h : len ≤ len') (cells : List Host.Cell) (lo : Nat)
    (hw : cellsWf len lo cells = true) : cellsWf len' lo cells = true := by
  induction cells generalizing lo with
  | nil => rfl
  | cons x rest ih =>
    obtain ⟨k, w⟩ := x
    rw [cellsWf_cons] at hw ⊢
    exact ⟨hw.1, by omega, hw.2.2.1, ih _ hw.2.2.2⟩

/-- Below its first address a list reads as unlisted. -/
theorem lookupCell_below {len lo o : Nat} (cells : List Host.Cell) (hw : cellsWf len lo cells = true) (ho : o < lo) :
    lookupCell cells o = unlistedByte := by
  cases cells with
  | nil => rfl
  | cons x rest =>
    obtain ⟨k, w⟩ := x
    have hk := (cellsWf_cons.1 hw).1
    simp only [lookupCell, if_pos (show o < k by omega)]

/-- From `len` on a list reads as unlisted. -/
theorem lookupCell_above {len lo o : Nat} (cells : List Host.Cell) (hw : cellsWf len lo cells = true) (ho : len ≤ o) :
    lookupCell cells o = unlistedByte := by
  induction cells generalizing lo with
  | nil => rfl
  | cons x rest ih =>
    obtain ⟨k, w⟩ := x
    obtain ⟨-, hk, -, hr⟩ := cellsWf_cons.1 hw
    simp only [lookupCell, if_neg (show ¬ o < k by omega), if_neg (show ¬ o = k by omega)]
    exact ih hr

/-- `setCell` keeps the canonical form. -/
theorem setCell_wf {len lo o : Nat} (v : Byte) (cells : List Host.Cell) (hw : cellsWf len lo cells = true)
    (hlo : lo ≤ o) (ho : o < len) : cellsWf len lo (setCell cells o v) = true := by
  induction cells generalizing lo with
  | nil =>
    by_cases hv : v = unlistedByte
    · simp [setCell, hv, cellsWf]
    · simp [setCell, hv, cellsWf, hlo, ho]
  | cons x rest ih =>
    obtain ⟨k, w⟩ := x
    obtain ⟨h1, h2, h3, h4⟩ := cellsWf_cons.1 hw
    by_cases hok : o < k
    · by_cases hv : v = unlistedByte
      · simpa [setCell, hok, hv] using hw
      · simp only [setCell, if_pos hok, if_neg hv]
        exact cellsWf_cons.2 ⟨hlo, ho, hv, cellsWf_cons.2 ⟨hok, h2, h3, h4⟩⟩
    · by_cases hek : o = k
      · subst hek
        by_cases hv : v = unlistedByte
        · simp only [setCell, lt_irrefl, if_true, if_false, if_pos hv]
          exact cellsWf_mono rest (by omega) h4
        · simp only [setCell, lt_irrefl, if_true, if_false, if_neg hv]
          exact cellsWf_cons.2 ⟨h1, h2, hv, h4⟩
      · simp only [setCell, if_neg hok, if_neg hek]
        exact cellsWf_cons.2 ⟨h1, h2, h3, ih h4 (by omega)⟩

/-- What a canonical list reads as after `setCell`. -/
theorem lookupCell_setCell {len lo : Nat} (o q : Nat) (v : Byte) (cells : List Host.Cell)
    (hw : cellsWf len lo cells = true) :
    lookupCell (setCell cells o v) q = if q = o then v else lookupCell cells q := by
  induction cells generalizing lo with
  | nil =>
    by_cases hv : v = unlistedByte <;> by_cases hq : q = o <;> simp [setCell, lookupCell, hv, hq]
  | cons x rest ih =>
    obtain ⟨k, w⟩ := x
    obtain ⟨h1, h2, h3, h4⟩ := cellsWf_cons.1 hw
    by_cases hok : o < k
    · by_cases hv : v = unlistedByte
      · by_cases hq : q = o
        · simp [setCell, lookupCell, hok, hv, hq]
        · simp [setCell, hok, hv, hq]
      · by_cases hq : q = o
        · simp [setCell, lookupCell, hok, hv, hq]
        · by_cases hlt : q < o
          · simp [setCell, lookupCell, hok, hv, hq, hlt, show q < k by omega]
          · simp [setCell, lookupCell, hok, hv, hq, hlt]
    · by_cases hek : o = k
      · subst hek
        by_cases hv : v = unlistedByte
        · by_cases hq : q = o
          · subst hq
            simp [setCell, hv, lookupCell_below rest h4 (Nat.lt_succ_self q)]
          · by_cases hlt : q < o
            · simp [setCell, lookupCell, hv, hq, hlt, lookupCell_below rest h4 (show q < o + 1 by omega)]
            · simp [setCell, lookupCell, hv, hq, hlt]
        · by_cases hq : q = o <;> simp [setCell, lookupCell, hv, hq]
      · have hr := ih h4
        by_cases hq : q = o
        · simp [setCell, lookupCell, hok, hek, hq] at hr ⊢
          exact hr
        · simp [setCell, lookupCell, hok, hek, hq] at hr ⊢
          rw [hr]

theorem setCells_wf {len o : Nat} (bytes : List Byte) (cells : List Host.Cell) (hw : cellsWf len 0 cells = true)
    (ho : o + bytes.length ≤ len) : cellsWf len 0 (setCells cells o bytes) = true := by
  induction bytes generalizing cells o with
  | nil => exact hw
  | cons v rest ih =>
    simp only [List.length_cons] at ho
    exact ih _ (setCell_wf v cells hw (Nat.zero_le _) (by omega)) (by omega)

variable {m m' : Memory} {o n : Nat} {v : Byte}

/-- Everything a byte read can answer. -/
theorem Memory.read?_eq (m : Memory) (o : Nat) :
    m.read? o = if o < m.len.val then some (lookupCell m.cells o) else none := by
  simp [Memory.read?, Memory.inBounds]

/-- Everything a byte write can answer. -/
theorem Memory.write?_eq (m : Memory) (o : Nat) (v : Byte) :
    m.write? o v = if o < m.len.val then some { m with cells := setCell m.cells o v } else none := by
  simp [Memory.write?, Memory.inBounds]

/-- Everything a range read can answer. -/
theorem Memory.readRange?_eq (m : Memory) (o n : Nat) :
    m.readRange? o n
      = if o + n ≤ m.len.val then some ((List.range n).map fun k => lookupCell m.cells (o + k)) else none := by
  simp [Memory.readRange?, Memory.inBounds]

/-- A write never changes the length. -/
theorem Memory.write?_len (h : m.write? o v = some m') : m'.len = m.len := by
  rw [Memory.write?_eq] at h
  split at h
  · cases h; rfl
  · cases h

/-- A write keeps the canonical form. -/
theorem Memory.write?_wf (hw : m.wf = true) (h : m.write? o v = some m') : m'.wf = true := by
  rw [Memory.write?_eq] at h
  split at h
  · rename_i ho
    cases h
    exact setCell_wf v m.cells hw (Nat.zero_le o) ho
  · cases h

/-- Placing bytes from outside keeps the canonical form. -/
theorem Memory.place_wf (m : Memory) (o : Nat) (bytes : List Byte) (h : m.wf = true) : (m.place o bytes).wf = true := by
  have hlim := m.len.isLt
  have hval : (min (max m.len.val (o + bytes.length)) (Config.memLenLimit - 1)) % Config.memLenLimit
      = min (max m.len.val (o + bytes.length)) (Config.memLenLimit - 1) :=
    Nat.mod_eq_of_lt (by simp only [Config.memLenLimit]; omega)
  simp only [Memory.wf, Memory.place, Fin.ofNat, hval]
  by_cases hb : bytes.take (min (max m.len.val (o + bytes.length)) (Config.memLenLimit - 1) - o) = []
  · rw [hb]
    exact cellsWf_len_mono (by simp only [Config.memLenLimit] at hlim ⊢; omega) _ _ h
  · refine setCells_wf _ _ (cellsWf_len_mono (by simp only [Config.memLenLimit] at hlim ⊢; omega) _ _ h) ?_
    have : (bytes.take (min (max m.len.val (o + bytes.length)) (Config.memLenLimit - 1) - o)).length ≠ 0 := by
      simpa [List.length_eq_zero_iff] using hb
    simp only [List.length_take] at this ⊢
    omega

/-- The reset memory is canonical. -/
theorem State.reset_memWf : State.reset.mem.wf = true := rfl

/-- A constructed memory is canonical. -/
theorem construct_memWf {image : List Byte} {bound : Option Nat} {s : State} (h : construct image bound = some s) :
    s.mem.wf = true := by
  unfold construct at h
  split at h
  · cases h
    exact setCells_wf image [] rfl (by simp)
  · cases h

end Sys2Proof.Machine
end

