-- ==== Sys2Proof/Laws/State.lean ====
section
/-! SUPPORT. What each named update of the state does to each field: one lemma per field per update. -/

namespace Sys2Proof.Machine

variable (s : State)

@[simp] theorem State.advance_a (n : Nat) : (s.advance n).a = s.a := rfl
@[simp] theorem State.advance_b (n : Nat) : (s.advance n).b = s.b := rfl
@[simp] theorem State.advance_c (n : Nat) : (s.advance n).c = s.c := rfl
@[simp] theorem State.advance_d (n : Nat) : (s.advance n).d = s.d := rfl
@[simp] theorem State.advance_e (n : Nat) : (s.advance n).e = s.e := rfl
@[simp] theorem State.advance_f (n : Nat) : (s.advance n).f = s.f := rfl
@[simp] theorem State.advance_la (n : Nat) : (s.advance n).la = s.la := rfl
@[simp] theorem State.advance_lb (n : Nat) : (s.advance n).lb = s.lb := rfl
@[simp] theorem State.advance_lc (n : Nat) : (s.advance n).lc = s.lc := rfl
@[simp] theorem State.advance_ld (n : Nat) : (s.advance n).ld = s.ld := rfl
@[simp] theorem State.advance_ptr (n : Nat) : (s.advance n).ptr = s.ptr := rfl
@[simp] theorem State.advance_pc (n : Nat) : (s.advance n).pc = s.pc + BitVec.ofNat 32 n := rfl
@[simp] theorem State.advance_mem (n : Nat) : (s.advance n).mem = s.mem := rfl
@[simp] theorem State.advance_out (n : Nat) : (s.advance n).out = s.out := rfl
@[simp] theorem State.advance_status (n : Nat) : (s.advance n).status = s.status := rfl
@[simp] theorem State.advance_fault (n : Nat) : (s.advance n).fault = s.fault := rfl
@[simp] theorem State.advance_steps (n : Nat) : (s.advance n).steps = s.steps := rfl
@[simp] theorem State.advance_maxSteps (n : Nat) : (s.advance n).maxSteps = s.maxSteps := rfl

@[simp] theorem State.setPc_a (v : Word32) : (s.setPc v).a = s.a := rfl
@[simp] theorem State.setPc_b (v : Word32) : (s.setPc v).b = s.b := rfl
@[simp] theorem State.setPc_c (v : Word32) : (s.setPc v).c = s.c := rfl
@[simp] theorem State.setPc_d (v : Word32) : (s.setPc v).d = s.d := rfl
@[simp] theorem State.setPc_e (v : Word32) : (s.setPc v).e = s.e := rfl
@[simp] theorem State.setPc_f (v : Word32) : (s.setPc v).f = s.f := rfl
@[simp] theorem State.setPc_la (v : Word32) : (s.setPc v).la = s.la := rfl
@[simp] theorem State.setPc_lb (v : Word32) : (s.setPc v).lb = s.lb := rfl
@[simp] theorem State.setPc_lc (v : Word32) : (s.setPc v).lc = s.lc := rfl
@[simp] theorem State.setPc_ld (v : Word32) : (s.setPc v).ld = s.ld := rfl
@[simp] theorem State.setPc_ptr (v : Word32) : (s.setPc v).ptr = s.ptr := rfl
@[simp] theorem State.setPc_pc (v : Word32) : (s.setPc v).pc = v := rfl
@[simp] theorem State.setPc_mem (v : Word32) : (s.setPc v).mem = s.mem := rfl
@[simp] theorem State.setPc_out (v : Word32) : (s.setPc v).out = s.out := rfl
@[simp] theorem State.setPc_status (v : Word32) : (s.setPc v).status = s.status := rfl
@[simp] theorem State.setPc_fault (v : Word32) : (s.setPc v).fault = s.fault := rfl
@[simp] theorem State.setPc_steps (v : Word32) : (s.setPc v).steps = s.steps := rfl
@[simp] theorem State.setPc_maxSteps (v : Word32) : (s.setPc v).maxSteps = s.maxSteps := rfl

@[simp] theorem State.setMem_a (m : Memory) : (s.setMem m).a = s.a := rfl
@[simp] theorem State.setMem_b (m : Memory) : (s.setMem m).b = s.b := rfl
@[simp] theorem State.setMem_c (m : Memory) : (s.setMem m).c = s.c := rfl
@[simp] theorem State.setMem_d (m : Memory) : (s.setMem m).d = s.d := rfl
@[simp] theorem State.setMem_e (m : Memory) : (s.setMem m).e = s.e := rfl
@[simp] theorem State.setMem_f (m : Memory) : (s.setMem m).f = s.f := rfl
@[simp] theorem State.setMem_la (m : Memory) : (s.setMem m).la = s.la := rfl
@[simp] theorem State.setMem_lb (m : Memory) : (s.setMem m).lb = s.lb := rfl
@[simp] theorem State.setMem_lc (m : Memory) : (s.setMem m).lc = s.lc := rfl
@[simp] theorem State.setMem_ld (m : Memory) : (s.setMem m).ld = s.ld := rfl
@[simp] theorem State.setMem_ptr (m : Memory) : (s.setMem m).ptr = s.ptr := rfl
@[simp] theorem State.setMem_pc (m : Memory) : (s.setMem m).pc = s.pc := rfl
@[simp] theorem State.setMem_mem (m : Memory) : (s.setMem m).mem = m := rfl
@[simp] theorem State.setMem_out (m : Memory) : (s.setMem m).out = s.out := rfl
@[simp] theorem State.setMem_status (m : Memory) : (s.setMem m).status = s.status := rfl
@[simp] theorem State.setMem_fault (m : Memory) : (s.setMem m).fault = s.fault := rfl
@[simp] theorem State.setMem_steps (m : Memory) : (s.setMem m).steps = s.steps := rfl
@[simp] theorem State.setMem_maxSteps (m : Memory) : (s.setMem m).maxSteps = s.maxSteps := rfl

@[simp] theorem State.appendOut_a (v : Byte) : (s.appendOut v).a = s.a := rfl
@[simp] theorem State.appendOut_b (v : Byte) : (s.appendOut v).b = s.b := rfl
@[simp] theorem State.appendOut_c (v : Byte) : (s.appendOut v).c = s.c := rfl
@[simp] theorem State.appendOut_d (v : Byte) : (s.appendOut v).d = s.d := rfl
@[simp] theorem State.appendOut_e (v : Byte) : (s.appendOut v).e = s.e := rfl
@[simp] theorem State.appendOut_f (v : Byte) : (s.appendOut v).f = s.f := rfl
@[simp] theorem State.appendOut_la (v : Byte) : (s.appendOut v).la = s.la := rfl
@[simp] theorem State.appendOut_lb (v : Byte) : (s.appendOut v).lb = s.lb := rfl
@[simp] theorem State.appendOut_lc (v : Byte) : (s.appendOut v).lc = s.lc := rfl
@[simp] theorem State.appendOut_ld (v : Byte) : (s.appendOut v).ld = s.ld := rfl
@[simp] theorem State.appendOut_ptr (v : Byte) : (s.appendOut v).ptr = s.ptr := rfl
@[simp] theorem State.appendOut_pc (v : Byte) : (s.appendOut v).pc = s.pc := rfl
@[simp] theorem State.appendOut_mem (v : Byte) : (s.appendOut v).mem = s.mem := rfl
@[simp] theorem State.appendOut_out (v : Byte) : (s.appendOut v).out = s.out ++ [v] := rfl
@[simp] theorem State.appendOut_status (v : Byte) : (s.appendOut v).status = s.status := rfl
@[simp] theorem State.appendOut_fault (v : Byte) : (s.appendOut v).fault = s.fault := rfl
@[simp] theorem State.appendOut_steps (v : Byte) : (s.appendOut v).steps = s.steps := rfl
@[simp] theorem State.appendOut_maxSteps (v : Byte) : (s.appendOut v).maxSteps = s.maxSteps := rfl

@[simp] theorem State.halt_a : (s.halt).a = s.a := rfl
@[simp] theorem State.halt_b : (s.halt).b = s.b := rfl
@[simp] theorem State.halt_c : (s.halt).c = s.c := rfl
@[simp] theorem State.halt_d : (s.halt).d = s.d := rfl
@[simp] theorem State.halt_e : (s.halt).e = s.e := rfl
@[simp] theorem State.halt_f : (s.halt).f = s.f := rfl
@[simp] theorem State.halt_la : (s.halt).la = s.la := rfl
@[simp] theorem State.halt_lb : (s.halt).lb = s.lb := rfl
@[simp] theorem State.halt_lc : (s.halt).lc = s.lc := rfl
@[simp] theorem State.halt_ld : (s.halt).ld = s.ld := rfl
@[simp] theorem State.halt_ptr : (s.halt).ptr = s.ptr := rfl
@[simp] theorem State.halt_pc : (s.halt).pc = s.pc := rfl
@[simp] theorem State.halt_mem : (s.halt).mem = s.mem := rfl
@[simp] theorem State.halt_out : (s.halt).out = s.out := rfl
@[simp] theorem State.halt_status : (s.halt).status = .halted := rfl
@[simp] theorem State.halt_fault : (s.halt).fault = s.fault := rfl
@[simp] theorem State.halt_steps : (s.halt).steps = s.steps := rfl
@[simp] theorem State.halt_maxSteps : (s.halt).maxSteps = s.maxSteps := rfl

@[simp] theorem State.countStep_a : (s.countStep).a = s.a := rfl
@[simp] theorem State.countStep_b : (s.countStep).b = s.b := rfl
@[simp] theorem State.countStep_c : (s.countStep).c = s.c := rfl
@[simp] theorem State.countStep_d : (s.countStep).d = s.d := rfl
@[simp] theorem State.countStep_e : (s.countStep).e = s.e := rfl
@[simp] theorem State.countStep_f : (s.countStep).f = s.f := rfl
@[simp] theorem State.countStep_la : (s.countStep).la = s.la := rfl
@[simp] theorem State.countStep_lb : (s.countStep).lb = s.lb := rfl
@[simp] theorem State.countStep_lc : (s.countStep).lc = s.lc := rfl
@[simp] theorem State.countStep_ld : (s.countStep).ld = s.ld := rfl
@[simp] theorem State.countStep_ptr : (s.countStep).ptr = s.ptr := rfl
@[simp] theorem State.countStep_pc : (s.countStep).pc = s.pc := rfl
@[simp] theorem State.countStep_mem : (s.countStep).mem = s.mem := rfl
@[simp] theorem State.countStep_out : (s.countStep).out = s.out := rfl
@[simp] theorem State.countStep_status : (s.countStep).status = s.status := rfl
@[simp] theorem State.countStep_fault : (s.countStep).fault = s.fault := rfl
@[simp] theorem State.countStep_steps : (s.countStep).steps = s.steps + 1 := rfl
@[simp] theorem State.countStep_maxSteps : (s.countStep).maxSteps = s.maxSteps := rfl

@[simp] theorem State.takeFault_a (r : FaultRecord) : (s.takeFault r).a = s.a := rfl
@[simp] theorem State.takeFault_b (r : FaultRecord) : (s.takeFault r).b = s.b := rfl
@[simp] theorem State.takeFault_c (r : FaultRecord) : (s.takeFault r).c = s.c := rfl
@[simp] theorem State.takeFault_d (r : FaultRecord) : (s.takeFault r).d = s.d := rfl
@[simp] theorem State.takeFault_e (r : FaultRecord) : (s.takeFault r).e = s.e := rfl
@[simp] theorem State.takeFault_f (r : FaultRecord) : (s.takeFault r).f = s.f := rfl
@[simp] theorem State.takeFault_la (r : FaultRecord) : (s.takeFault r).la = s.la := rfl
@[simp] theorem State.takeFault_lb (r : FaultRecord) : (s.takeFault r).lb = s.lb := rfl
@[simp] theorem State.takeFault_lc (r : FaultRecord) : (s.takeFault r).lc = s.lc := rfl
@[simp] theorem State.takeFault_ld (r : FaultRecord) : (s.takeFault r).ld = s.ld := rfl
@[simp] theorem State.takeFault_ptr (r : FaultRecord) : (s.takeFault r).ptr = s.ptr := rfl
@[simp] theorem State.takeFault_pc (r : FaultRecord) : (s.takeFault r).pc = s.pc := rfl
@[simp] theorem State.takeFault_mem (r : FaultRecord) : (s.takeFault r).mem = s.mem := rfl
@[simp] theorem State.takeFault_out (r : FaultRecord) : (s.takeFault r).out = s.out := rfl
@[simp] theorem State.takeFault_status (r : FaultRecord) : (s.takeFault r).status = .faulted := rfl
@[simp] theorem State.takeFault_fault (r : FaultRecord) : (s.takeFault r).fault = some r := rfl
@[simp] theorem State.takeFault_steps (r : FaultRecord) : (s.takeFault r).steps = s.steps := rfl
@[simp] theorem State.takeFault_maxSteps (r : FaultRecord) : (s.takeFault r).maxSteps = s.maxSteps := rfl

@[simp] theorem State.setX8_la (r : Reg8) (v : Byte) : (s.setX8 r v).la = s.la := by cases r <;> rfl
@[simp] theorem State.setX8_lb (r : Reg8) (v : Byte) : (s.setX8 r v).lb = s.lb := by cases r <;> rfl
@[simp] theorem State.setX8_lc (r : Reg8) (v : Byte) : (s.setX8 r v).lc = s.lc := by cases r <;> rfl
@[simp] theorem State.setX8_ld (r : Reg8) (v : Byte) : (s.setX8 r v).ld = s.ld := by cases r <;> rfl
@[simp] theorem State.setX8_ptr (r : Reg8) (v : Byte) : (s.setX8 r v).ptr = s.ptr := by cases r <;> rfl
@[simp] theorem State.setX8_pc (r : Reg8) (v : Byte) : (s.setX8 r v).pc = s.pc := by cases r <;> rfl
@[simp] theorem State.setX8_mem (r : Reg8) (v : Byte) : (s.setX8 r v).mem = s.mem := by cases r <;> rfl
@[simp] theorem State.setX8_out (r : Reg8) (v : Byte) : (s.setX8 r v).out = s.out := by cases r <;> rfl
@[simp] theorem State.setX8_status (r : Reg8) (v : Byte) : (s.setX8 r v).status = s.status := by cases r <;> rfl
@[simp] theorem State.setX8_fault (r : Reg8) (v : Byte) : (s.setX8 r v).fault = s.fault := by cases r <;> rfl
@[simp] theorem State.setX8_steps (r : Reg8) (v : Byte) : (s.setX8 r v).steps = s.steps := by cases r <;> rfl
@[simp] theorem State.setX8_maxSteps (r : Reg8) (v : Byte) : (s.setX8 r v).maxSteps = s.maxSteps := by cases r <;> rfl
@[simp] theorem State.setX8_a_a (v : Byte) : (s.setX8 .a v).a = v := rfl
@[simp] theorem State.setX8_a_b (v : Byte) : (s.setX8 .a v).b = s.b := rfl
@[simp] theorem State.setX8_a_c (v : Byte) : (s.setX8 .a v).c = s.c := rfl
@[simp] theorem State.setX8_a_d (v : Byte) : (s.setX8 .a v).d = s.d := rfl
@[simp] theorem State.setX8_a_e (v : Byte) : (s.setX8 .a v).e = s.e := rfl
@[simp] theorem State.setX8_a_f (v : Byte) : (s.setX8 .a v).f = s.f := rfl
@[simp] theorem State.setX8_b_a (v : Byte) : (s.setX8 .b v).a = s.a := rfl
@[simp] theorem State.setX8_b_b (v : Byte) : (s.setX8 .b v).b = v := rfl
@[simp] theorem State.setX8_b_c (v : Byte) : (s.setX8 .b v).c = s.c := rfl
@[simp] theorem State.setX8_b_d (v : Byte) : (s.setX8 .b v).d = s.d := rfl
@[simp] theorem State.setX8_b_e (v : Byte) : (s.setX8 .b v).e = s.e := rfl
@[simp] theorem State.setX8_b_f (v : Byte) : (s.setX8 .b v).f = s.f := rfl
@[simp] theorem State.setX8_c_a (v : Byte) : (s.setX8 .c v).a = s.a := rfl
@[simp] theorem State.setX8_c_b (v : Byte) : (s.setX8 .c v).b = s.b := rfl
@[simp] theorem State.setX8_c_c (v : Byte) : (s.setX8 .c v).c = v := rfl
@[simp] theorem State.setX8_c_d (v : Byte) : (s.setX8 .c v).d = s.d := rfl
@[simp] theorem State.setX8_c_e (v : Byte) : (s.setX8 .c v).e = s.e := rfl
@[simp] theorem State.setX8_c_f (v : Byte) : (s.setX8 .c v).f = s.f := rfl
@[simp] theorem State.setX8_d_a (v : Byte) : (s.setX8 .d v).a = s.a := rfl
@[simp] theorem State.setX8_d_b (v : Byte) : (s.setX8 .d v).b = s.b := rfl
@[simp] theorem State.setX8_d_c (v : Byte) : (s.setX8 .d v).c = s.c := rfl
@[simp] theorem State.setX8_d_d (v : Byte) : (s.setX8 .d v).d = v := rfl
@[simp] theorem State.setX8_d_e (v : Byte) : (s.setX8 .d v).e = s.e := rfl
@[simp] theorem State.setX8_d_f (v : Byte) : (s.setX8 .d v).f = s.f := rfl
@[simp] theorem State.setX8_e_a (v : Byte) : (s.setX8 .e v).a = s.a := rfl
@[simp] theorem State.setX8_e_b (v : Byte) : (s.setX8 .e v).b = s.b := rfl
@[simp] theorem State.setX8_e_c (v : Byte) : (s.setX8 .e v).c = s.c := rfl
@[simp] theorem State.setX8_e_d (v : Byte) : (s.setX8 .e v).d = s.d := rfl
@[simp] theorem State.setX8_e_e (v : Byte) : (s.setX8 .e v).e = v := rfl
@[simp] theorem State.setX8_e_f (v : Byte) : (s.setX8 .e v).f = s.f := rfl
@[simp] theorem State.setX8_f_a (v : Byte) : (s.setX8 .f v).a = s.a := rfl
@[simp] theorem State.setX8_f_b (v : Byte) : (s.setX8 .f v).b = s.b := rfl
@[simp] theorem State.setX8_f_c (v : Byte) : (s.setX8 .f v).c = s.c := rfl
@[simp] theorem State.setX8_f_d (v : Byte) : (s.setX8 .f v).d = s.d := rfl
@[simp] theorem State.setX8_f_e (v : Byte) : (s.setX8 .f v).e = s.e := rfl
@[simp] theorem State.setX8_f_f (v : Byte) : (s.setX8 .f v).f = v := rfl

@[simp] theorem State.setX32_a (r : Reg32) (v : Word32) : (s.setX32 r v).a = s.a := by cases r <;> rfl
@[simp] theorem State.setX32_b (r : Reg32) (v : Word32) : (s.setX32 r v).b = s.b := by cases r <;> rfl
@[simp] theorem State.setX32_c (r : Reg32) (v : Word32) : (s.setX32 r v).c = s.c := by cases r <;> rfl
@[simp] theorem State.setX32_d (r : Reg32) (v : Word32) : (s.setX32 r v).d = s.d := by cases r <;> rfl
@[simp] theorem State.setX32_e (r : Reg32) (v : Word32) : (s.setX32 r v).e = s.e := by cases r <;> rfl
@[simp] theorem State.setX32_f (r : Reg32) (v : Word32) : (s.setX32 r v).f = s.f := by cases r <;> rfl
@[simp] theorem State.setX32_mem (r : Reg32) (v : Word32) : (s.setX32 r v).mem = s.mem := by cases r <;> rfl
@[simp] theorem State.setX32_out (r : Reg32) (v : Word32) : (s.setX32 r v).out = s.out := by cases r <;> rfl
@[simp] theorem State.setX32_status (r : Reg32) (v : Word32) : (s.setX32 r v).status = s.status := by cases r <;> rfl
@[simp] theorem State.setX32_fault (r : Reg32) (v : Word32) : (s.setX32 r v).fault = s.fault := by cases r <;> rfl
@[simp] theorem State.setX32_steps (r : Reg32) (v : Word32) : (s.setX32 r v).steps = s.steps := by cases r <;> rfl
@[simp] theorem State.setX32_maxSteps (r : Reg32) (v : Word32) : (s.setX32 r v).maxSteps = s.maxSteps := by cases r <;> rfl
@[simp] theorem State.setX32_la_la (v : Word32) : (s.setX32 .la v).la = v := rfl
@[simp] theorem State.setX32_la_lb (v : Word32) : (s.setX32 .la v).lb = s.lb := rfl
@[simp] theorem State.setX32_la_lc (v : Word32) : (s.setX32 .la v).lc = s.lc := rfl
@[simp] theorem State.setX32_la_ld (v : Word32) : (s.setX32 .la v).ld = s.ld := rfl
@[simp] theorem State.setX32_la_ptr (v : Word32) : (s.setX32 .la v).ptr = s.ptr := rfl
@[simp] theorem State.setX32_la_pc (v : Word32) : (s.setX32 .la v).pc = s.pc := rfl
@[simp] theorem State.setX32_lb_la (v : Word32) : (s.setX32 .lb v).la = s.la := rfl
@[simp] theorem State.setX32_lb_lb (v : Word32) : (s.setX32 .lb v).lb = v := rfl
@[simp] theorem State.setX32_lb_lc (v : Word32) : (s.setX32 .lb v).lc = s.lc := rfl
@[simp] theorem State.setX32_lb_ld (v : Word32) : (s.setX32 .lb v).ld = s.ld := rfl
@[simp] theorem State.setX32_lb_ptr (v : Word32) : (s.setX32 .lb v).ptr = s.ptr := rfl
@[simp] theorem State.setX32_lb_pc (v : Word32) : (s.setX32 .lb v).pc = s.pc := rfl
@[simp] theorem State.setX32_lc_la (v : Word32) : (s.setX32 .lc v).la = s.la := rfl
@[simp] theorem State.setX32_lc_lb (v : Word32) : (s.setX32 .lc v).lb = s.lb := rfl
@[simp] theorem State.setX32_lc_lc (v : Word32) : (s.setX32 .lc v).lc = v := rfl
@[simp] theorem State.setX32_lc_ld (v : Word32) : (s.setX32 .lc v).ld = s.ld := rfl
@[simp] theorem State.setX32_lc_ptr (v : Word32) : (s.setX32 .lc v).ptr = s.ptr := rfl
@[simp] theorem State.setX32_lc_pc (v : Word32) : (s.setX32 .lc v).pc = s.pc := rfl
@[simp] theorem State.setX32_ld_la (v : Word32) : (s.setX32 .ld v).la = s.la := rfl
@[simp] theorem State.setX32_ld_lb (v : Word32) : (s.setX32 .ld v).lb = s.lb := rfl
@[simp] theorem State.setX32_ld_lc (v : Word32) : (s.setX32 .ld v).lc = s.lc := rfl
@[simp] theorem State.setX32_ld_ld (v : Word32) : (s.setX32 .ld v).ld = v := rfl
@[simp] theorem State.setX32_ld_ptr (v : Word32) : (s.setX32 .ld v).ptr = s.ptr := rfl
@[simp] theorem State.setX32_ld_pc (v : Word32) : (s.setX32 .ld v).pc = s.pc := rfl
@[simp] theorem State.setX32_ptr_la (v : Word32) : (s.setX32 .ptr v).la = s.la := rfl
@[simp] theorem State.setX32_ptr_lb (v : Word32) : (s.setX32 .ptr v).lb = s.lb := rfl
@[simp] theorem State.setX32_ptr_lc (v : Word32) : (s.setX32 .ptr v).lc = s.lc := rfl
@[simp] theorem State.setX32_ptr_ld (v : Word32) : (s.setX32 .ptr v).ld = s.ld := rfl
@[simp] theorem State.setX32_ptr_ptr (v : Word32) : (s.setX32 .ptr v).ptr = v := rfl
@[simp] theorem State.setX32_ptr_pc (v : Word32) : (s.setX32 .ptr v).pc = s.pc := rfl
@[simp] theorem State.setX32_pc_la (v : Word32) : (s.setX32 .pc v).la = s.la := rfl
@[simp] theorem State.setX32_pc_lb (v : Word32) : (s.setX32 .pc v).lb = s.lb := rfl
@[simp] theorem State.setX32_pc_lc (v : Word32) : (s.setX32 .pc v).lc = s.lc := rfl
@[simp] theorem State.setX32_pc_ld (v : Word32) : (s.setX32 .pc v).ld = s.ld := rfl
@[simp] theorem State.setX32_pc_ptr (v : Word32) : (s.setX32 .pc v).ptr = s.ptr := rfl
@[simp] theorem State.setX32_pc_pc (v : Word32) : (s.setX32 .pc v).pc = v := rfl

@[simp] theorem State.x8_a : s.x8 .a = s.a := rfl
@[simp] theorem State.x8_b : s.x8 .b = s.b := rfl
@[simp] theorem State.x8_c : s.x8 .c = s.c := rfl
@[simp] theorem State.x8_d : s.x8 .d = s.d := rfl
@[simp] theorem State.x8_e : s.x8 .e = s.e := rfl
@[simp] theorem State.x8_f : s.x8 .f = s.f := rfl
@[simp] theorem State.x32_la : s.x32 .la = s.la := rfl
@[simp] theorem State.x32_lb : s.x32 .lb = s.lb := rfl
@[simp] theorem State.x32_lc : s.x32 .lc = s.lc := rfl
@[simp] theorem State.x32_ld : s.x32 .ld = s.ld := rfl
@[simp] theorem State.x32_ptr : s.x32 .ptr = s.ptr := rfl
@[simp] theorem State.x32_pc : s.x32 .pc = s.pc := rfl

/-- Reading an 8-bit register after a write to one. -/
@[simp] theorem State.x8_setX8 (r q : Reg8) (v : Byte) : (s.setX8 r v).x8 q = if q = r then v else s.x8 q := by
  cases r <;> cases q <;> rfl

/-- Reading a 32-bit register after a write to one. -/
@[simp] theorem State.x32_setX32 (r q : Reg32) (v : Word32) : (s.setX32 r v).x32 q = if q = r then v else s.x32 q := by
  cases r <;> cases q <;> rfl

@[simp] theorem State.x8_advance (n : Nat) (q : Reg8) : (s.advance n).x8 q = s.x8 q := by cases q <;> rfl
@[simp] theorem State.x8_setPc (v : Word32) (q : Reg8) : (s.setPc v).x8 q = s.x8 q := by cases q <;> rfl
@[simp] theorem State.x8_setMem (m : Memory) (q : Reg8) : (s.setMem m).x8 q = s.x8 q := by cases q <;> rfl
@[simp] theorem State.x8_appendOut (v : Byte) (q : Reg8) : (s.appendOut v).x8 q = s.x8 q := by cases q <;> rfl
@[simp] theorem State.x8_halt (q : Reg8) : (s.halt).x8 q = s.x8 q := by cases q <;> rfl
@[simp] theorem State.x8_countStep (q : Reg8) : (s.countStep).x8 q = s.x8 q := by cases q <;> rfl
@[simp] theorem State.x8_takeFault (r : FaultRecord) (q : Reg8) : (s.takeFault r).x8 q = s.x8 q := by cases q <;> rfl
@[simp] theorem State.x8_setX32 (r : Reg32) (v : Word32) (q : Reg8) : (s.setX32 r v).x8 q = s.x8 q := by
  cases r <;> cases q <;> rfl
@[simp] theorem State.x32_setMem (m : Memory) (q : Reg32) : (s.setMem m).x32 q = s.x32 q := by cases q <;> rfl
@[simp] theorem State.x32_appendOut (v : Byte) (q : Reg32) : (s.appendOut v).x32 q = s.x32 q := by cases q <;> rfl
@[simp] theorem State.x32_halt (q : Reg32) : (s.halt).x32 q = s.x32 q := by cases q <;> rfl
@[simp] theorem State.x32_countStep (q : Reg32) : (s.countStep).x32 q = s.x32 q := by cases q <;> rfl
@[simp] theorem State.x32_takeFault (r : FaultRecord) (q : Reg32) : (s.takeFault r).x32 q = s.x32 q := by cases q <;> rfl
@[simp] theorem State.x32_setX8 (r : Reg8) (v : Byte) (q : Reg32) : (s.setX8 r v).x32 q = s.x32 q := by
  cases r <;> cases q <;> rfl
@[simp] theorem State.x32_setPc (v : Word32) (q : Reg32) : (s.setPc v).x32 q = if q = .pc then v else s.x32 q := by
  cases q <;> rfl
@[simp] theorem State.x32_advance (n : Nat) (q : Reg32) :
    (s.advance n).x32 q = if q = .pc then s.pc + BitVec.ofNat 32 n else s.x32 q := by
  cases q <;> rfl

/-- The effective address does not depend on the `pc` advance. -/
@[simp] theorem State.ea_advance (n : Nat) : (s.advance n).ea = s.ea := rfl

/-- `complete` always answers a next state. -/
@[simp] theorem complete_eq : complete s = .next s.countStep := rfl

/-- `raise` always answers a next state. -/
@[simp] theorem raise_eq (r : FaultRecord) : raise r s = .next (s.takeFault r) := rfl

end Sys2Proof.Machine
end

