-- ==== Sys2Proof/Laws/Meaning.lean ====
section
/-! SUPPORT. One lemma for each shared operation of the meanings and of the step: everything it can answer. -/

namespace Sys2Proof.Machine

variable {s s1 t : State} {opcode v : Byte} {dst : Reg8} {i : Instr} {r : FaultRecord}

/-- Everything the load of the MV family can do. -/
theorem loadTo_cases (h : loadTo opcode dst s s1 = .next t) :
    (∃ w, s1.mem.read? s1.ea = some w ∧ t = (s1.setX8 dst w).countStep) ∨
    (s1.mem.read? s1.ea = none ∧ t = s.takeFault (accessRecord (some opcode) s.ea 1 s)) := by
  unfold loadTo at h
  split at h
  · cases h; exact .inr ⟨‹_›, rfl⟩
  · cases h; exact .inl ⟨_, ‹_›, rfl⟩

/-- Everything the store of the MV family can do. -/
theorem storeByte_cases (h : storeByte opcode v s s1 = .next t) :
    (∃ m, s1.mem.write? s1.ea v = some m ∧ t = (s1.setMem m).countStep) ∨
    (s1.mem.write? s1.ea v = none ∧ t = s.takeFault (accessRecord (some opcode) s.ea 1 s)) := by
  unfold storeByte at h
  split at h
  · cases h; exact .inr ⟨‹_›, rfl⟩
  · cases h; exact .inl ⟨_, ‹_›, rfl⟩

/-- A store inside memory. -/
theorem storeByte_inBounds (n : Nat) (h : s.ea < s.mem.len.val) :
    storeByte opcode v s (s.advance n)
      = .next ((s.advance n).setMem { s.mem with cells := setCell s.mem.cells s.ea v }).countStep := by
  simp only [storeByte, State.advance_mem, State.ea_advance, Memory.write?_eq, if_pos h, complete_eq]

/-- A store outside memory. -/
theorem storeByte_outOfBounds (n : Nat) (h : s.mem.len.val ≤ s.ea) :
    storeByte opcode v s (s.advance n) = dataOutOfBounds opcode s := by
  simp only [storeByte, State.advance_mem, State.ea_advance, Memory.write?_eq,
    if_neg (show ¬ s.ea < s.mem.len.val by omega)]

/-- The effective address fits the record's 33 bits. -/
theorem ea_toNat33 (s : State) : (BitVec.ofNat 33 s.ea).toNat = s.ea := by
  have := s.ptr.isLt
  have := s.c.isLt
  simp only [State.ea, BitVec.toNat_ofNat]
  omega

/-- The `pc` advance over bytes that are in bounds does not wrap. -/
theorem pc_add_toNat (s : State) (n : Nat) (h : s.pc.toNat + n ≤ s.mem.len.val) :
    (s.pc + BitVec.ofNat 32 n).toNat = s.pc.toNat + n := by
  have := s.mem.len.isLt
  simp only [Config.memLenLimit] at this
  rw [BitVec.toNat_add, BitVec.toNat_ofNat]
  omega

/-- Every instruction answers a next state: it completes or takes a fault. -/
theorem exec_next (i : Instr) (s : State) : ∃ t, exec i s = .next t := by
  cases i with
  | mvLoad x => simp only [exec, execMvLoad, loadTo]; split <;> exact ⟨_, rfl⟩
  | mvStore x => simp only [exec, execMvStore, storeByte]; split <;> exact ⟨_, rfl⟩
  | mviStore x => simp only [exec, execMviStore, storeByte]; split <;> exact ⟨_, rfl⟩
  | mvMemMem =>
    simp only [exec, execMvMemMem, storeByte]
    split
    · exact ⟨_, rfl⟩
    · split <;> exact ⟨_, rfl⟩
  | _ => exact ⟨_, rfl⟩

/-- A step that fetches is the fetch and then the instruction. -/
theorem step_canFetch (hc : s.CanFetch) :
    step s = match fetchInstr s with | .error r => raise r s | .ok i => exec i s := by
  unfold step
  rw [hc.1]
  simp only [hc.2]
  rfl

/-- A fetch that gives an instruction: the opcode byte and its operand bytes were all in bounds. -/
theorem fetchInstr_ok (h : fetchInstr s = .ok i) :
    ∃ op bytes, s.mem.read? s.pc.toNat = some op ∧
      s.mem.readRange? s.pc.toNat (1 + operandCount op) = some bytes ∧ i = decodeInstr op bytes.tail := by
  simp only [fetchInstr, State.peekByte, State.fetch] at h
  split at h
  · cases h
  · rename_i op hop
    cases hb : s.mem.readRange? s.pc.toNat (1 + operandCount op) with
    | none => simp [hb] at h
    | some bytes =>
      simp only [hb] at h
      cases h
      exact ⟨op, bytes, hop, hb, rfl⟩

/-- A fetch that fails: the opcode byte or an operand byte is out of bounds, and the record says which. -/
theorem fetchInstr_error (h : fetchInstr s = .error r) :
    (s.mem.read? s.pc.toNat = none ∧ r = accessRecord none s.pc.toNat 1 s) ∨
    ∃ op, s.mem.read? s.pc.toNat = some op ∧ s.mem.readRange? s.pc.toNat (1 + operandCount op) = none ∧
      r = accessRecord (some op) (s.pc.toNat + 1) (operandCount op) s := by
  simp only [fetchInstr, State.peekByte, State.fetch] at h
  split at h
  · cases h; exact .inl ⟨‹_›, rfl⟩
  · rename_i op hop
    cases hb : s.mem.readRange? s.pc.toNat (1 + operandCount op) with
    | none =>
      simp only [hb] at h
      cases h
      exact .inr ⟨op, hop, hb, rfl⟩
    | some bytes => simp [hb] at h

/-- Everything a step can do. -/
theorem step_cases (h : step s = .next t) :
    s.status = .running ∧
    ((s.atStepLimit = true ∧ t = s.takeFault (stepLimitRecord s)) ∨
     (s.atStepLimit = false ∧
       ((∃ r, fetchInstr s = .error r ∧ t = s.takeFault r) ∨ ∃ i, fetchInstr s = .ok i ∧ exec i s = .next t))) := by
  unfold step at h
  split at h
  · cases h
  · cases h
  · refine ⟨‹_›, ?_⟩
    split at h
    · cases h; exact .inl ⟨‹_›, rfl⟩
    · rename_i hl
      refine .inr ⟨by simpa using hl, ?_⟩
      split at h
      · cases h; exact .inl ⟨_, ‹_›, rfl⟩
      · exact .inr ⟨_, ‹_›, h⟩

end Sys2Proof.Machine
end

