-- ==== Sys2Proof/Tests/Slice0.lean ====
section
/-! SUPPORT. The model's own tests. Expected values come from spec/95_test_vectors.md (V and S numbers) or the rule
named; a witness_<Name> theorem shows inputs that meet the hypotheses of Obligations.<Name>. -/

namespace Sys2Proof.Tests

open Sys2Proof.Machine

/-- The machine constructed from an image, with no step bound. -/
def start (image : List Byte) : State := (construct image none).getD State.reset

/-- The state after one step, if there is one. -/
def after (s : State) : Option State :=
  match step s with
  | .next t => some t
  | .fault _ => none
  | .refused _ => none

/-- The start state of the V6 vectors: sixteen bytes, the instruction first, 0x99 at offset 11. -/
def v6 (b0 b1 : Byte) : State :=
  { start [b0, b1, 0, 0, 0, 0, 0, 0, 0, 0, 0, 0x99, 0, 0, 0, 0] with
    a := 0x11, b := 0x22, c := 0x03, d := 0x44, e := 0x55, f := 0x66, ptr := 0x08 }

/-- The start state of the V7 vectors, at offset 0 of an eight-byte image where the vectors use 0x10 of a longer one. -/
def v7 (bytes : List Byte) : State :=
  { start (bytes ++ [0, 0, 0]) with la := 0x11111111, lb := 0x22222222, lc := 0x33333333, ld := 0x44444444, ptr := 0x55555555 }

/-! ### Well-formedness: an ill-formed term for each check -/

theorem test_illFormed_exactByte00 : ¬ (Instr.invalidLead00 0x21).WellFormed := by decide
theorem test_illFormed_exactByte11 : ¬ (Instr.invalidLead11 0x04).WellFormed := by decide
theorem test_wellFormed_invalid : (Instr.invalidLead00 0x3F).WellFormed ∧ (Instr.invalidLead11 0x00).WellFormed := by decide

/-! ### Decoding: one word for each constructor, from V9, V12 and R96 -/

theorem test_decode_halt : decode [0x01] = .instr .halt [] := by decide
theorem test_decode_out : decode [0x02, 0x01] = .instr .out [0x01] := by decide
theorem test_decode_jez : decode [0x21, 0x78, 0x56, 0x34, 0x12] = .instr (.jez 0x12345678) [] := by decide
theorem test_decode_jnz : decode [0x22, 0x00, 0x01, 0x00, 0x00] = .instr (.jnz 0x100) [] := by decide
theorem test_decode_cmp : decode [0xC1] = .instr .cmp [] := by decide
theorem test_decode_add : decode [0xC2] = .instr .add [] := by decide
theorem test_decode_sub : decode [0xC3] = .instr .sub [] := by decide
theorem test_decode_xor : decode [0xC4] = .instr .xor [] := by decide
theorem test_decode_aptr : decode [0xE1, 0xC8] = .instr (.aptr 200) [] := by decide
theorem test_decode_mv : decode [0x6A] = .instr (.mv .e .b) [] := by decide
theorem test_decode_mvLoad : decode [0x4F] = .instr (.mvLoad .a) [] := by decide
theorem test_decode_mvStore : decode [0x7C] = .instr (.mvStore .d) [] := by decide
theorem test_decode_mvMemMem : decode [0x7F] = .instr .mvMemMem [] := by decide
theorem test_decode_mvi : decode [0x70, 0x02] = .instr (.mvi .f 0x02) [] := by decide
theorem test_decode_mviStore : decode [0x78, 0xCD] = .instr (.mviStore 0xCD) [] := by decide
theorem test_decode_mv32 : decode [0x8E] = .instr (.mv32 .la .pc) [] := by decide
theorem test_decode_mvi32 : decode [0x90, 0xEF, 0xBE, 0xAD, 0xDE] = .instr (.mvi32 .lb 0xDEADBEEF) [] := by decide
theorem test_decode_uriMvDst0 : decode [0x47, 0x01] = .instr (.uriMvDst0 7) [0x01] := by decide
theorem test_decode_uriMv32Dst0 : decode [0x80] = .instr (.uriMv32Dst0 0) [] := by decide
theorem test_decode_uriMv32Dst7 : decode [0xB8] = .instr (.uriMv32Dst7 0) [] := by decide
theorem test_decode_uriMv32Src7 : decode [0xB7] = .instr (.uriMv32Src7 .pc) [] := by decide
theorem test_decode_invalidLead00 : decode [0x23] = .instr (.invalidLead00 0x23) [] := by decide
theorem test_decode_invalidLead11 : decode [0xC5] = .instr (.invalidLead11 0x05) [] := by decide
theorem test_decode_truncated : decode [0x21, 0x00, 0x00, 0x00] = .missingOperands 0x21 4 := by decide
theorem test_decode_empty : decode [] = .noOpcode := by decide
theorem test_decodeTableWord : decodeTableWord 16 0xC8E1 = some (.aptr 200) := by decide
theorem test_encode_mvi32 : encode (.mvi32 .lb 0xDEADBEEF) = [0x90, 0xEF, 0xBE, 0xAD, 0xDE] := by decide

/-! ### One step: at most two for each instruction -/

/-- V1: 300 mod 255. -/
theorem test_add_reduces : (after { start [0xC2] with a := 200, b := 100 }).map (fun t => (t.a, t.pc)) = some (45, 1) := by
  decide
/-- V1: the sum 255 gives 0. -/
theorem test_add_255 : (after { start [0xC2] with a := 254, b := 1 }).map (fun t => t.a) = some 0 := by decide
/-- V2: -2 + 255. -/
theorem test_sub_wraps : (after { start [0xC3] with a := 3, b := 5 }).map (fun t => (t.a, t.b)) = some (253, 5) := by decide
/-- V2: the one pair that gives 255. -/
theorem test_sub_255 : (after { start [0xC3] with a := 255, b := 0 }).map (fun t => t.a) = some 255 := by decide
/-- V3. -/
theorem test_xor : (after { start [0xC4] with a := 0xF0, b := 0x3C }).map (fun t => t.a) = some 0xCC := by decide
/-- V3: the whole flag byte is overwritten. -/
theorem test_cmp_equal : (after (start [0xC1])).map (fun t => t.f) = some 0 := by decide
theorem test_cmp_unequal : (after { start [0xC1] with b := 255, f := 9 }).map (fun t => t.f) = some 1 := by decide
/-- V4: unsigned operand. -/
theorem test_aptr : (after { start [0xE1, 0x80] with ptr := 0x1234 }).map (fun t => (t.ptr, t.pc)) = some (0x12B4, 2) := by
  decide
/-- V4: the wrap (D6). -/
theorem test_aptr_wraps : (after { start [0xE1, 0xFF] with ptr := 0xFFFFFF80 }).map (fun t => t.ptr) = some 0x7F := by decide
/-- V5. -/
theorem test_jez_taken : (after (start [0x21, 0x78, 0x56, 0x34, 0x12])).map (fun t => t.pc) = some 0x12345678 := by decide
theorem test_jez_not_taken : (after { start [0x21, 0x10, 0, 0, 0] with f := 255 }).map (fun t => t.pc) = some 5 := by decide
theorem test_jnz_taken : (after { start [0x22, 0xFF, 0xFF, 0xFF, 0xFF] with f := 2 }).map (fun t => t.pc) = some 0xFFFFFFFF := by
  decide
theorem test_jnz_not_taken : (after (start [0x22, 0x10, 0, 0, 0])).map (fun t => t.pc) = some 5 := by decide
/-- R130. -/
theorem test_out : (after { start [0x02] with a := 5 }).map (fun t => (t.out, t.pc)) = some ([5], 1) := by decide
/-- S6, and a HALT in the last byte (R131). -/
theorem test_halt : (after (start [0x01, 0x02, 0x02])).map (fun t => (t.status, t.out, t.pc)) = some (.halted, [], 1) := by
  decide
theorem test_halt_no_step : ((after (start [0x01])).map after) = some none := by decide
/-- V6. -/
theorem test_mv : (after (v6 0x63 0)).map (fun t => (t.d, t.c, t.pc)) = some (0x03, 0x03, 1) := by decide
theorem test_mvLoad_old_c : (after (v6 0x5F 0)).map (fun t => (t.c, t.pc)) = some (0x99, 1) := by decide
theorem test_mvStore : (after (v6 0x7B 0)).map (fun t => (t.mem.read? 11, t.mem.read? 12)) = some (some 0x03, some 0) := by
  decide
theorem test_mvMemMem : (after (v6 0x7F 0)).map (fun t => (t.mem.read? 11, t.pc)) = some (some 0x99, 1) := by decide
theorem test_mvi : (after (v6 0x70 0x02)).map (fun t => (t.f, t.pc)) = some (0x02, 2) := by decide
theorem test_mviStore : (after (v6 0x78 0xCD)).map (fun t => (t.mem.read? 11, t.pc)) = some (some 0xCD, 2) := by decide
/-- V6: a store on the instruction's own operand byte. -/
theorem test_mviStore_self : (after { start [0x78, 0x01] with ptr := 1 }).map (fun t => (t.mem.read? 1, t.pc)) = some (some 1, 2) := by
  decide
/-- V7. -/
theorem test_mv32 : (after (v7 [0xA3])).map (fun t => (t.ld, t.pc)) = some (0x33333333, 1) := by decide
theorem test_mv32_reads_pc : (after (v7 [0xAE])).map (fun t => (t.ptr, t.pc)) = some (1, 1) := by decide
theorem test_mvi32 : (after (v7 [0x98, 0x00, 0x01, 0x00, 0x00])).map (fun t => (t.lc, t.pc)) = some (0x100, 5) := by decide
theorem test_mvi32_jumps : (after (v7 [0xB0, 0x20, 0, 0, 0])).map (fun t => t.pc) = some 0x20 := by decide

/-! ### Faults (V10, V11) -/

/-- The record after one step. -/
def faultOf (s : State) : Option FaultRecord := (after s).bind fun t => t.fault

theorem test_fault_empty_image :
    faultOf (start []) = some ⟨.outOfBoundsAccess, 0, none, some 0, some 1⟩ := by decide
theorem test_fault_invalid00 : faultOf (start [0x00]) = some ⟨.invalidOpcode, 0, some 0x00, none, none⟩ := by decide
theorem test_fault_invalid11 : faultOf (start [0xE2]) = some ⟨.invalidOpcode, 0, some 0xE2, none, none⟩ := by decide
theorem test_fault_uriMvDst0 :
    faultOf (start [0x47, 0x01]) = some ⟨.unreachableRegisterIndex, 0, some 0x47, none, none⟩ := by decide
theorem test_fault_uriMv32Dst0 :
    faultOf (start [0x80]) = some ⟨.unreachableRegisterIndex, 0, some 0x80, none, none⟩ := by decide
theorem test_fault_uriMv32Dst7 :
    faultOf (start [0xB8]) = some ⟨.unreachableRegisterIndex, 0, some 0xB8, none, none⟩ := by decide
theorem test_fault_uriMv32Src7 :
    faultOf (start [0x8F]) = some ⟨.unreachableRegisterIndex, 0, some 0x8F, none, none⟩ := by decide
theorem test_fault_operands : faultOf (start [0x88, 1, 2, 3]) = some ⟨.outOfBoundsAccess, 0, some 0x88, some 1, some 4⟩ := by
  decide
theorem test_fault_operand_before_data :
    faultOf { start [0x78] with ptr := 100 } = some ⟨.outOfBoundsAccess, 0, some 0x78, some 1, some 1⟩ := by decide
theorem test_fault_load : faultOf { start [0x4F] with c := 1 } = some ⟨.outOfBoundsAccess, 0, some 0x4F, some 1, some 1⟩ := by
  decide
theorem test_fault_store_not_wrapped :
    faultOf { start [0x79] with ptr := 0xFFFFFFFF, c := 0xFF }
      = some ⟨.outOfBoundsAccess, 0, some 0x79, some 0x1000000FE, some 1⟩ := by decide
theorem test_fault_memMem : faultOf { start [0x7F] with ptr := 5 } = some ⟨.outOfBoundsAccess, 0, some 0x7F, some 5, some 1⟩ := by
  decide
theorem test_fault_mviStore :
    faultOf { start [0x78, 0x01] with ptr := 2 } = some ⟨.outOfBoundsAccess, 0, some 0x78, some 2, some 1⟩ := by decide
theorem test_fault_off_end :
    faultOf { start [2, 2] with pc := 0xFFFFFFFF }
      = some ⟨.outOfBoundsAccess, 0xFFFFFFFF, none, some 0xFFFFFFFF, some 1⟩ := by decide
theorem test_fault_keeps_state : (after { start [0x4F] with ptr := 1 }).map (fun t => (t.status, t.pc, t.steps)) = some (.faulted, 0, 0) := by
  decide
theorem test_fault_terminal : ((after (start [0x00])).map after) = some none := by decide
theorem test_stepLimit :
    faultOf { start [0x01] with maxSteps := some 0 } = some ⟨.stepLimitExceeded, 0, none, none, none⟩ := by decide
theorem test_stepLimit_last : (after { start [0x01] with maxSteps := some 1 }).map (fun t => (t.status, t.steps)) = some (.halted, 1) := by
  decide
theorem test_causeCodes :
    [Cause.invalidOpcode, .outOfBoundsAccess, .unreachableRegisterIndex, .stepLimitExceeded].map causeCode = [1, 2, 3, 4] := by
  decide

/-! ### Reset and placing a word (V8, S7) -/

theorem test_reset_pc : State.reset.pc = 0 ∧ State.reset.status = .running ∧ State.reset.mem.cells = [] := by decide
theorem test_place_runs : (after (State.reset.withFetchWord 16 0x0548)).map (fun t => (t.a, t.pc)) = some (5, 2) := by decide
theorem test_place_keeps_form : (State.reset.withFetchWord 40 0xDEADBEEF90).mem.wf = true := by decide
/-- R185, R187. -/
theorem test_result : (after (start [0x01])).map State.result = some (some (.ok [])) := by decide

/-! ### Witnesses: inputs that meet the hypotheses of the statements, at the boundary of each clause -/

theorem witness_DecodeOfEncodeGivesInstruction :
    (Instr.mvi32 .pc 0xFFFFFFFF).WellFormed ∧ (Instr.invalidLead11 0x3F).WellFormed := by decide
theorem witness_EncodeOfDecodeGivesBytes : decode [0xBF, 0x01] = .instr (.uriMv32Dst7 7) [0x01] := by decide
theorem witness_OperandCountOfEveryByte : (Instr.mviStore 0xFF).WellFormed := by decide
theorem witness_ConstructedMemoryIsImage : ([] : List Byte).length < 4294967296 ∧ ([0x48, 0x05] : List Byte).length < 4294967296 := by
  decide
theorem witness_ConstructedStateIsReset : construct [0x48, 0x00, 0x02] (some 3) = some { start [0x48, 0x00, 0x02] with maxSteps := some 3 } := by
  decide
theorem witness_AccessesAreBoundsChecked : (start [1, 0, 3]).mem.readRange? 1 2 = some [0, 3] := by decide
theorem witness_ByteWriteThenRead :
    (start [1, 2]).mem.wf = true ∧ ((start [1, 2]).mem.write? 1 0).map (fun m => m.cells) = some [(0, 1)] := by decide
theorem witness_FetchMovesPcPastBytes : (start [0xE1, 0x07]).fetch 2 = some ([0xE1, 0x07], { start [0xE1, 0x07] with pc := 2 }) := by
  decide
theorem witness_FetchFaults_opcode : (start []).CanFetch ∧ (start []).mem.len.val ≤ (start []).pc.toNat := by
  exact ⟨⟨rfl, rfl⟩, by decide⟩
/-- One operand byte, or four, missing by one byte: the second clause of `FetchFaults` for each length. -/
theorem witness_FetchFaults_operands :
    (start [0x48]).CanFetch ∧ (start [0x48]).mem.read? 0 = some 0x48 ∧ (start [0x48]).mem.len.val < 0 + 1 + operandCount 0x48 ∧
    (start [0x21, 0, 0, 0]).CanFetch ∧ (start [0x21, 0, 0, 0]).mem.read? 0 = some 0x21 ∧
    (start [0x21, 0, 0, 0]).mem.len.val < 0 + 1 + operandCount 0x21 :=
  ⟨⟨rfl, rfl⟩, by decide, by decide, ⟨rfl, rfl⟩, by decide, by decide⟩
theorem witness_CmpWritesEqualityFlag : State.reset.a = State.reset.b ∧ (v6 0xC1 0).a ≠ (v6 0xC1 0).b := by decide
theorem witness_JezJumpsOnZeroFlag : State.reset.f = 0 ∧ (v6 0x21 0).f ≠ 0 := by decide
theorem witness_JnzJumpsOnNonzeroFlag : (v6 0x22 0).f ≠ 0 ∧ State.reset.f = 0 := by decide
theorem witness_AddAndSubAreInverse (s : State) :
    ∃ t u v w, exec .add s = .next t ∧ exec .sub t = .next u ∧ exec .sub s = .next v ∧ exec .add v = .next w :=
  ⟨_, _, _, _, rfl, rfl, rfl, rfl⟩
theorem witness_AddAndSubAreInverse_clauses : State.reset.a ≠ 255 ∧ ({ State.reset with a := 255 } : State).a = 255 := by decide
theorem witness_AluResultRanges : ∃ t, exec .sub { State.reset with a := 255 } = .next t ∧ t.a = 255 := ⟨_, rfl, by decide⟩
theorem witness_MvMovesRegister : Reg8.a ≠ Reg8.f := by decide
theorem witness_MvLoadsByteAtEffectiveAddress :
    { start [0x4F, 7] with c := 1 }.mem.read? { start [0x4F, 7] with c := 1 }.ea = some 7 ∧
    (start [0x4F, 7]).mem.len.val ≤ { start [0x4F, 7] with c := 2 }.ea := by decide
theorem witness_MvStoresByteAtEffectiveAddress :
    (start [0x79, 7]).mem.wf = true ∧ { start [0x79, 7] with c := 1 }.ea < (start [0x79, 7]).mem.len.val ∧
    (start [0x79, 7]).mem.len.val ≤ { start [0x79, 7] with c := 2 }.ea := by decide
theorem witness_MvMemoryToMemoryRewritesByte : (v6 0x7F 0).mem.wf = true ∧ (v6 0x7F 0).ea < (v6 0x7F 0).mem.len.val := by decide
theorem witness_MviWritesImmediate : Reg8.f ≠ Reg8.a := by decide
theorem witness_MviStoresImmediate : (v6 0x78 1).mem.wf = true ∧ (v6 0x78 1).ea < (v6 0x78 1).mem.len.val := by decide
/-- A store of the HALT byte over the next instruction. -/
def patch : State := { start [0x79, 0x00] with a := 1, ptr := 1 }
theorem witness_StoreIsSeenByNextFetch :
    patch.mem.wf = true ∧ patch.ReadyFor (.mvStore .a) ∧ patch.x8 .a = 0x01 ∧ patch.ea = patch.pc.toNat + 1 ∧
    patch.ea < patch.mem.len.val ∧ ∃ t, step patch = .next t ∧ t.CanFetch :=
  ⟨by decide, ⟨⟨rfl, rfl⟩, by decide⟩, by decide, by decide, by decide, _, rfl, rfl, rfl⟩
theorem witness_Mv32MovesRegister : Reg32.la ≠ Reg32.pc := by decide
theorem witness_Mvi32WritesImmediate : Reg32.pc ≠ Reg32.ptr := by decide
theorem witness_InvalidOpcodeBytesFault :
    (start [0x00]).CanFetch ∧ (start [0x00]).mem.read? (start [0x00]).pc.toNat = some 0x00 ∧ isInvalidOpcode 0x00 = true ∧
    isInvalidOpcode 0x01 = false ∧ isInvalidOpcode 0x3F = true ∧ isInvalidOpcode 0x40 = false ∧ isInvalidOpcode 0xFF = true :=
  ⟨⟨rfl, rfl⟩, by decide⟩
theorem witness_UnreachableIndexBytesFault :
    (start [0x87]).CanFetch ∧ (start [0x87]).mem.read? (start [0x87]).pc.toNat = some 0x87 ∧ isUnreachableIndex 0x87 = true ∧
    isUnreachableIndex 0x88 = false ∧ isUnreachableIndex 0x40 = true ∧ isUnreachableIndex 0xBF = true :=
  ⟨⟨rfl, rfl⟩, by decide⟩
theorem test_countInvalid : ((List.range 256).countP fun n => isInvalidOpcode (BitVec.ofNat 8 n)) = 119 := by decide +kernel
theorem test_countUnreachable : ((List.range 256).countP fun n => isUnreachableIndex (BitVec.ofNat 8 n)) = 30 := by decide +kernel
theorem witness_FaultEncodingsTakeTheirFault :
    encodedFault (.uriMv32Src7 .pc) = some .unreachableRegisterIndex ∧ encodedFault (.invalidLead00 0) = some .invalidOpcode := by
  decide
theorem witness_FetchOutsideMemoryFaults :
    (start [2]).CanFetch ∧ (start [2]).mem.len.val ≤ { start [2] with pc := 1 }.pc.toNat ∧
    (start [0x88, 1, 2, 3]).mem.read? 0 = some 0x88 ∧ (start [0x88, 1, 2, 3]).mem.len.val < 0 + 1 + operandCount 0x88 :=
  ⟨⟨rfl, rfl⟩, by decide⟩
theorem witness_DataAccessOutsideMemoryFaults :
    accessesData (.mvLoad .a) = true ∧ accessesData (.mviStore 1) = true ∧ accessesData (.mvStore .f) = true ∧
    accessesData .mvMemMem = true ∧
    (start [0x4F]).mem.len.val ≤ { start [0x4F] with c := 1 }.ptr.toNat + { start [0x4F] with c := 1 }.c.toNat := by decide
theorem witness_StepLimitIsExact :
    { start [1] with maxSteps := some 0 }.atStepLimit = true ∧ { start [0] with maxSteps := some 1 }.atStepLimit = false ∧
    ∃ t r, step { start [0] with maxSteps := some 1 } = .next t ∧ t.status = .faulted ∧ t.fault = some r :=
  ⟨by decide, by decide, _, _, rfl, rfl, rfl⟩
theorem witness_FaultsArePrecise : ∃ t, step (start [0x00]) = .next t ∧ t.status = .faulted := ⟨_, rfl, rfl⟩
theorem witness_OnlyTheseInstructionsFault :
    (start [0x01]).status ≠ .faulted ∧ ∃ t, exec (.uriMvDst0 1) (start [0x01]) = .next t ∧ t.status = .faulted :=
  ⟨by decide, _, rfl, rfl⟩
theorem witness_StepRunsDecodedInstruction :
    (Instr.aptr 7).WellFormed ∧ (start [0xE1, 7]).ReadyFor (.aptr 7) := ⟨by decide, ⟨rfl, rfl⟩, by decide⟩
theorem witness_StatusTransitions :
    construct [0x01] none = some (start [0x01]) ∧ (∃ t, exec .halt (start [0x01]) = .next t) ∧
    (start [0x01]).status = .running ∧ (start [0x01]).fault = none ∧
    ∃ t, step (start [0x01]) = .next t ∧ t.status ≠ .running := ⟨by decide, ⟨_, rfl⟩, by decide, by decide, _, rfl, by decide⟩
/-- A state that meets the invariant and steps to a Halted one. -/
theorem witness_StepKeepsInvariant : (start [0x01]).Inv ∧ ∃ t, step (start [0x01]) = .next t ∧ t.status = .halted :=
  ⟨⟨by decide, by decide, fun _ h => (nomatch h), fun _ h => (nomatch h), fun h => (nomatch h), fun _ h => (nomatch h)⟩, _, rfl, rfl⟩
theorem witness_PcAfterEveryInstruction :
    (start []).status = .running ∧ (∃ t, exec (.jez 9) (start []) = .next t ∧ t.status ≠ .faulted) ∧
    ∃ t, exec .mvMemMem (start []) = .next t ∧ t.status = .faulted :=
  ⟨by decide, ⟨_, rfl, by decide⟩, _, rfl, rfl⟩
theorem witness_PcAdvanceNeverWraps :
    (Instr.jnz 9).WellFormed ∧ (start [0x22, 9, 0, 0, 0]).ReadyFor (.jnz 9) ∧ jumpTarget (.jnz 9) (start [0x22, 9, 0, 0, 0]) = none ∧
    ∃ t, step (start [0x22, 9, 0, 0, 0]) = .next t ∧ t.status ≠ .faulted :=
  ⟨by decide, ⟨⟨rfl, rfl⟩, by decide⟩, by decide, _, rfl, by decide⟩
theorem witness_EightBitRegisterFrame : (∃ t, exec (.mvLoad .a) (start [0]) = .next t) ∧ writes8 (.mvLoad .a) ≠ some .b :=
  ⟨⟨_, rfl⟩, by decide⟩
theorem witness_ThirtyTwoBitRegisterFrame :
    (∃ t, exec (.mv32 .la .pc) (start [0]) = .next t) ∧ Reg32.ptr ≠ .pc ∧ writes32 (.mv32 .la .pc) ≠ some .ptr :=
  ⟨⟨_, rfl⟩, by decide⟩
theorem witness_MemoryFrame :
    (start [0, 1]).mem.wf = true ∧ (∃ t, exec (.mviStore 5) (start [0, 1]) = .next t) ∧ storesTo (.mviStore 5) (start [0, 1]) ≠ some 1 :=
  ⟨by decide, ⟨_, rfl⟩, by decide⟩
theorem witness_ControllerStateFrame :
    (start []).status = .running ∧ (∃ t, exec .out (start []) = .next t ∧ t.status ≠ .faulted) ∧
    ∃ t, exec (.invalidLead00 0) (start []) = .next t ∧ t.status = .faulted :=
  ⟨by decide, ⟨_, rfl, by decide⟩, _, rfl, rfl⟩
theorem witness_OutputOnlyGrows : ∃ t, step (start [0x02]) = .next t ∧ t.out = (start [0x02]).out ++ [0] := ⟨_, rfl, by decide⟩
theorem witness_OutputIsNeverRead : ∃ t, exec .out (start []) = .next t := ⟨_, rfl⟩
theorem witness_StepCountIsNeverRead : ∃ t, exec .halt (start []) = .next t := ⟨_, rfl⟩
theorem witness_WideRegistersDoNotLeak : ∃ t, exec (.mv32 .ptr .la) (start []) = .next t := ⟨_, rfl⟩
theorem witness_BoundedRunEnds :
    { start [0x21, 0, 0, 0, 0] with maxSteps := some 5 }.maxSteps = some 5 ∧ (start [0x21, 0, 0, 0, 0]).steps ≤ 5 := by decide

end Sys2Proof.Tests
end

section
/-! PROOF. The controller's transitions (R33): what every instruction does to `status` and the fault record, that none
reads `status`, and which steps halt or fault. -/

namespace Sys2Proof.Machine

/-! ### What an instruction does to the controller -/

/-- From `s` to `t` an instruction other than HALT completed, as far as the controller sees it: `status`, the record and
the bound are kept and one more step is counted (R181). -/
structure State.CompletesTo (s t : State) : Prop where
  status : t.status = s.status
  fault : t.fault = s.fault
  steps : t.steps = s.steps + 1
  maxSteps : t.maxSteps = s.maxSteps

/-- From `s` to `t` an instruction took a fault on the opcode byte it began at (R208). -/
def State.FaultsTo (s t : State) : Prop := ∃ r : FaultRecord, r.pc = s.pc ∧ t = s.takeFault r

/-- A load completes or takes a fault. -/
theorem loadTo_controller {opcode : Byte} {dst : Reg8} {s t : State} {n : Nat}
    (h : loadTo opcode dst s (s.advance n) = .next t) : s.CompletesTo t ∨ s.FaultsTo t := by
  obtain ⟨w, -, rfl⟩ | ⟨-, rfl⟩ := loadTo_cases h
  · exact .inl (by constructor <;> simp)
  · exact .inr ⟨_, rfl, rfl⟩

/-- A store completes or takes a fault. -/
theorem storeByte_controller {opcode v : Byte} {s t : State} {n : Nat}
    (h : storeByte opcode v s (s.advance n) = .next t) : s.CompletesTo t ∨ s.FaultsTo t := by
  obtain ⟨m, -, rfl⟩ | ⟨-, rfl⟩ := storeByte_cases h
  · exact .inl (by constructor <;> simp)
  · exact .inr ⟨_, rfl, rfl⟩

/-- Everything an instruction can do to the controller: HALT halts, every other one completes or takes a fault. -/
theorem exec_controller {i : Instr} {s t : State} (h : exec i s = .next t) :
    (i = .halt ∧ t = (s.advance 1).halt.countStep) ∨ (i ≠ .halt ∧ (s.CompletesTo t ∨ s.FaultsTo t)) := by
  cases i with
  | halt => cases h; exact .inl ⟨rfl, rfl⟩
  | mvLoad dst => exact .inr ⟨nofun, loadTo_controller h⟩
  | mvStore src => exact .inr ⟨nofun, storeByte_controller h⟩
  | mviStore imm => exact .inr ⟨nofun, storeByte_controller h⟩
  | mvMemMem =>
    refine .inr ⟨nofun, ?_⟩
    simp only [exec, execMvMemMem] at h
    split at h
    · cases h; exact .inr ⟨_, rfl, rfl⟩
    · exact storeByte_controller h
  | uriMvDst0 _ | uriMv32Dst0 _ | uriMv32Dst7 _ | uriMv32Src7 _ | invalidLead00 _ | invalidLead11 _ =>
    cases h; exact .inr ⟨nofun, .inr ⟨_, rfl, rfl⟩⟩
  | jez _ | jnz _ => cases h; refine .inr ⟨nofun, .inl ?_⟩; split <;> constructor <;> simp
  | out | cmp | add | sub | xor | aptr _ | mv _ _ | mvi _ _ | mv32 _ _ | mvi32 _ _ =>
    cases h; exact .inr ⟨nofun, .inl (by constructor <;> simp)⟩

/-! ### No instruction reads the status -/

/-- The state with another `status`, as the statement writes it. -/
def State.setStatus (q : Status) (s : State) : State := { s with status := q }

section
variable (q : Status) (s : State)

@[simp] theorem State.setStatus_mem : (s.setStatus q).mem = s.mem := rfl
@[simp] theorem State.setStatus_f : (s.setStatus q).f = s.f := rfl
@[simp] theorem State.ea_setStatus : (s.setStatus q).ea = s.ea := rfl
@[simp] theorem State.x8_setStatus (r : Reg8) : (s.setStatus q).x8 r = s.x8 r := by cases r <;> rfl
@[simp] theorem State.x32_setStatus (r : Reg32) : (s.setStatus q).x32 r = s.x32 r := by cases r <;> rfl
@[simp] theorem State.advance_setStatus (n : Nat) : (s.setStatus q).advance n = (s.advance n).setStatus q := rfl
@[simp] theorem State.setPc_setStatus (v : Word32) : (s.setStatus q).setPc v = (s.setPc v).setStatus q := rfl
@[simp] theorem State.setMem_setStatus (m : Memory) : (s.setStatus q).setMem m = (s.setMem m).setStatus q := rfl
@[simp] theorem State.setX8_setStatus (r : Reg8) (v : Byte) :
    (s.setStatus q).setX8 r v = (s.setX8 r v).setStatus q := by cases r <;> rfl
@[simp] theorem State.setX32_setStatus (r : Reg32) (v : Word32) :
    (s.setStatus q).setX32 r v = (s.setX32 r v).setStatus q := by cases r <;> rfl
@[simp] theorem State.countStep_setStatus : (s.setStatus q).countStep = s.countStep.setStatus q := rfl

end

/-- A load does not read the status. -/
theorem loadTo_setStatus {opcode : Byte} {dst : Reg8} {s s1 t : State} (q : Status)
    (h : loadTo opcode dst s s1 = .next t) :
    ∃ q', loadTo opcode dst (s.setStatus q) (s1.setStatus q) = .next (t.setStatus q') := by
  obtain ⟨w, hw, rfl⟩ | ⟨hw, rfl⟩ := loadTo_cases h
  · exact ⟨q, by simp [loadTo, hw]⟩
  · exact ⟨.faulted, by simp only [loadTo, State.setStatus_mem, State.ea_setStatus, hw]; rfl⟩

/-- A store does not read the status. -/
theorem storeByte_setStatus {opcode v : Byte} {s s1 t : State} (q : Status)
    (h : storeByte opcode v s s1 = .next t) :
    ∃ q', storeByte opcode v (s.setStatus q) (s1.setStatus q) = .next (t.setStatus q') := by
  obtain ⟨m, hm, rfl⟩ | ⟨hm, rfl⟩ := storeByte_cases h
  · exact ⟨q, by simp [storeByte, hm]⟩
  · exact ⟨.faulted, by simp only [storeByte, State.setStatus_mem, State.ea_setStatus, hm]; rfl⟩

/-- No instruction reads the status: from any other status it gives the same next state up to `status`. -/
theorem exec_setStatus {i : Instr} {s t : State} (q : Status) (h : exec i s = .next t) :
    ∃ q', exec i (s.setStatus q) = .next (t.setStatus q') := by
  cases i with
  | halt => cases h; exact ⟨.halted, rfl⟩
  | mvLoad dst => exact loadTo_setStatus q h
  | mvStore src =>
    simp only [exec, execMvStore, State.x8_setStatus]
    exact storeByte_setStatus q h
  | mviStore imm => exact storeByte_setStatus q h
  | mvMemMem =>
    simp only [exec, execMvMemMem, State.setStatus_mem, State.ea_setStatus] at h ⊢
    split at h
    · cases h; exact ⟨.faulted, rfl⟩
    · exact storeByte_setStatus q h
  | uriMvDst0 _ | uriMv32Dst0 _ | uriMv32Dst7 _ | uriMv32Src7 _ | invalidLead00 _ | invalidLead11 _ =>
    cases h; exact ⟨.faulted, rfl⟩
  | jez _ | jnz _ =>
    cases h
    cases hf : flagIsZero s.f <;> exact ⟨q, by simp [exec, execJez, execJnz, hf]⟩
  | mv dst src => cases h; exact ⟨q, by simp [exec, execMv]⟩
  | mv32 dst src => cases h; exact ⟨q, by simp [exec, execMv32]⟩
  | mvi dst imm => cases h; exact ⟨q, by simp [exec, execMvi]⟩
  | mvi32 dst imm => cases h; exact ⟨q, by simp [exec, execMvi32]⟩
  | out | cmp | add | sub | xor | aptr _ => cases h; exact ⟨q, rfl⟩

/-! ### Fetching a HALT -/

theorem decodeMv_ne_halt (dst src : BitVec 3) (operands : List Byte) : decodeMv dst src operands ≠ .halt := by
  unfold decodeMv
  repeat' split
  all_goals exact nofun

theorem decodeMv32_ne_halt (dst src : BitVec 3) (operands : List Byte) : decodeMv32 dst src operands ≠ .halt := by
  unfold decodeMv32
  repeat' split
  all_goals exact nofun

/-- HALT is the one byte 0x01: no other row of the table, no MV family and no fault row decodes to it (R82 to R85). -/
theorem decodeInstr_eq_halt_iff (op : Byte) (operands : List Byte) : decodeInstr op operands = .halt ↔ op = 0x01 := by
  simp [decodeInstr, ite_eq_iff, decodeMv_ne_halt, decodeMv32_ne_halt]

/-- The fetch gives a HALT exactly where the byte at `pc` is 0x01; no operand byte can be missing. -/
theorem fetchInstr_halt_iff (s : State) : fetchInstr s = .ok .halt ↔ s.mem.read? s.pc.toNat = some 0x01 := by
  constructor
  · intro h
    obtain ⟨op, bytes, hop, -, hi⟩ := fetchInstr_ok h
    rw [hop, (decodeInstr_eq_halt_iff op bytes.tail).1 hi.symm]
  · intro h
    have hlen : s.pc.toNat + (1 + operandCount 0x01) ≤ s.mem.len.val := by
      rw [Memory.read?_eq] at h
      split at h
      · assumption
      · cases h
    simp only [fetchInstr, State.peekByte, h, State.fetch, Memory.readRange?_eq, if_pos hlen]
    rfl

/-! ### The step's transitions -/

/-- Construction gives Running (R33, R39). -/
theorem construct_status {image : List Byte} {bound : Option Nat} {s : State} (h : construct image bound = some s) :
    s.status = .running := by
  unfold construct at h
  split at h
  · cases h; rfl
  · cases h

/-- From Running a step is always possible (R262). -/
theorem step_next_of_running {s : State} (hs : s.status = .running) : ∃ t, step s = .next t := by
  unfold step
  rw [hs]
  dsimp only
  split
  · exact ⟨_, rfl⟩
  · split
    · exact ⟨_, rfl⟩
    · exact exec_next _ s

/-- Everything a step can do to the controller. -/
theorem step_controller_cases {s t : State} (h : step s = .next t) :
    (s.atStepLimit = false ∧ fetchInstr s = .ok .halt ∧ t.status = .halted ∧ t.fault = s.fault) ∨
    (fetchInstr s ≠ .ok .halt ∧ t.status = .running ∧ t.fault = s.fault) ∨
    ((s.atStepLimit = true ∨ fetchInstr s ≠ .ok .halt) ∧ ∃ r, t = s.takeFault r) := by
  obtain ⟨hs, ⟨hl, rfl⟩ | ⟨hl, ⟨r, hf, rfl⟩ | ⟨i, hf, hx⟩⟩⟩ := step_cases h
  · exact .inr (.inr ⟨.inl hl, _, rfl⟩)
  · exact .inr (.inr ⟨.inr (by simp [hf]), r, rfl⟩)
  · obtain ⟨rfl, rfl⟩ | ⟨hi, hc | ⟨r, -, rfl⟩⟩ := exec_controller hx
    · exact .inl ⟨hl, hf, by simp, by simp⟩
    · exact .inr (.inl ⟨by simpa [hf] using hi, hc.status.trans hs, hc.fault⟩)
    · exact .inr (.inr ⟨.inr (by simpa [hf] using hi), r, rfl⟩)

/-- A step halts exactly where it is below the step bound and the byte at `pc` is HALT (R131, R215). -/
theorem step_halted_iff {s t : State} (h : step s = .next t) :
    t.status = .halted ↔ s.atStepLimit = false ∧ s.mem.read? s.pc.toNat = some 0x01 := by
  rw [← fetchInstr_halt_iff]
  obtain ⟨hl, hf, ht, -⟩ | ⟨hf, ht, -⟩ | ⟨hl | hf, r, rfl⟩ := step_controller_cases h
  · simp [hl, hf, ht]
  · simp [hf, ht]
  · simp [hl]
  · simp [hf]

/-- A step from a state with no record ends Faulted exactly where it fills the record (R34, R206). -/
theorem step_faulted_iff {s t : State} (h : step s = .next t) (hs : s.fault = none) :
    t.status = .faulted ↔ t.fault ≠ none := by
  obtain ⟨-, -, ht, hfault⟩ | ⟨-, ht, hfault⟩ | ⟨-, r, rfl⟩ := step_controller_cases h
  · simp [ht, hfault, hs]
  · simp [ht, hfault, hs]
  · simp

/-- Settles O44: every clause is one of the lemmas above; a step that answers began in Running by `step_cases`. -/
theorem statusTransitions : Obligations.StatusTransitions := by
  refine ⟨fun _ _ _ h => construct_status h, fun _ _ _ other h => exec_setStatus other h, fun s => ⟨fun hs => ?_, ?_⟩⟩
  · obtain ⟨t, ht⟩ := step_next_of_running hs
    exact ⟨t, ht, step_halted_iff ht, step_faulted_iff ht⟩
  · intro hs t ht
    exact hs (step_cases ht).1

end Sys2Proof.Machine
end

section
/-! PROOF. Memory after construction is the image (R52). -/

namespace Sys2Proof.Machine

/-- What a canonical list reads as after bytes were stored one after another from `o` on. -/
theorem lookupCell_setCells {len o : Nat} (q : Nat) (bytes : List Byte) (cells : List Host.Cell)
    (hw : cellsWf len 0 cells = true) (ho : o + bytes.length ≤ len) :
    lookupCell (setCells cells o bytes) q
      = if o ≤ q then bytes[q - o]?.getD (lookupCell cells q) else lookupCell cells q := by
  induction bytes generalizing cells o with
  | nil => simp [setCells]
  | cons v rest ih =>
    rw [List.length_cons] at ho
    have hrest := ih (o := o + 1) (setCell cells o v) (setCell_wf v cells hw (Nat.zero_le _) (by omega)) (by omega)
    rw [setCells, hrest, lookupCell_setCell o q v cells hw]
    obtain hlt | rfl | hgt := lt_trichotomy q o
    · simp [show ¬ o + 1 ≤ q by omega, show ¬ o ≤ q by omega, hlt.ne]
    · simp
    · simp [show o + 1 ≤ q by omega, hgt.le, hgt.ne', show q - o = q - (o + 1) + 1 by omega]

/-- Stored from address 0 into a memory of their own length, bytes are read back, and no others. -/
theorem Memory.read?_setCells_nil (bytes : List Byte) (h : bytes.length < Config.memLenLimit) (o : Nat) :
    Memory.read? { len := ⟨bytes.length, h⟩, cells := setCells [] 0 bytes } o = bytes[o]? := by
  rw [Memory.read?_eq]
  dsimp only
  rw [lookupCell_setCells o bytes [] (len := bytes.length) rfl (by omega)]
  split
  case isTrue ho => simp [ho]
  case isFalse ho => simp [Nat.le_of_not_lt ho]

/-- Settles O8: an image in range is stored from address 0, and `read?_setCells_nil` reads it back. -/
theorem constructedMemoryIsImage : Obligations.ConstructedMemoryIsImage := by
  intro image bound h
  exact ⟨_, dif_pos h, rfl, rfl, Memory.read?_setCells_nil image h⟩

end Sys2Proof.Machine
end

section
/-! PROOF. The opcode table read byte by byte: the exact-match rows (R82), which opcode bytes fault at classification
(R90, R91), and the step that meets one of them (R201, R203). -/

namespace Sys2Proof

/-- A sequence that starts with an opcode byte and all its operand bytes decodes to that byte's instruction (R95). -/
theorem decode_cons_append {op : Byte} (operands rest : List Byte) (h : operands.length = operandCount op) :
    decode (op :: (operands ++ rest)) = .instr (decodeInstr op operands) rest := by
  simp [decode, ← h]

/-- Settles O3: each row is the decoder's rule at the row's opcode byte and operand count. -/
theorem exactMatchTable : Obligations.ExactMatchTable := by
  intro b0 b1 b2 b3 rest
  have operandless {op : Byte} (h : operandCount op = 0) : decode (op :: rest) = .instr (decodeInstr op []) rest :=
    decode_cons_append [] rest h.symm
  have wide {op : Byte} (h : operandCount op = 4) :
      decode (op :: b0 :: b1 :: b2 :: b3 :: rest) = .instr (decodeInstr op [b0, b1, b2, b3]) rest :=
    decode_cons_append [b0, b1, b2, b3] rest h.symm
  exact ⟨operandless rfl, operandless rfl, operandless rfl, operandless rfl, operandless rfl, operandless rfl,
    wide rfl, wide rfl, decode_cons_append [b0] rest rfl⟩

/-! ### What the opcode byte alone decides -/

/-- The instruction with its immediate replaced by 0: what the opcode byte alone decides. -/
def Instr.eraseImm : Instr → Instr
  | .jez _ => .jez 0
  | .jnz _ => .jnz 0
  | .aptr _ => .aptr 0
  | .mvi x _ => .mvi x 0
  | .mviStore _ => .mviStore 0
  | .mvi32 x _ => .mvi32 x 0
  | i => i

@[simp] theorem opcodeOf_eraseImm (i : Instr) : opcodeOf i.eraseImm = opcodeOf i := by cases i <;> rfl

theorem decodeMv_eraseImm (dst src : BitVec 3) (operands : List Byte) :
    (decodeMv dst src operands).eraseImm = decodeMv dst src [] := by
  unfold decodeMv
  repeat' split
  all_goals rfl

theorem decodeMv32_eraseImm (dst src : BitVec 3) (operands : List Byte) :
    (decodeMv32 dst src operands).eraseImm = decodeMv32 dst src [] := by
  unfold decodeMv32
  repeat' split
  all_goals rfl

/-- The operand bytes reach only the immediate. -/
theorem decodeInstr_eraseImm (op : Byte) (operands : List Byte) :
    (decodeInstr op operands).eraseImm = decodeInstr op [] := by
  simp only [decodeInstr, apply_ite Instr.eraseImm, decodeMv_eraseImm, decodeMv32_eraseImm]
  rfl

/-- The bytes are checked with no operands, which `decodeInstr_eraseImm` allows (R96, R99). -/
@[simp] theorem opcodeOf_decodeInstr (op : Byte) (operands : List Byte) : opcodeOf (decodeInstr op operands) = op := by
  rw [← opcodeOf_eraseImm, decodeInstr_eraseImm]
  revert op
  decide +kernel

end Sys2Proof

namespace Sys2Proof.Machine

@[simp] theorem encodedFault_eraseImm (i : Instr) : encodedFault i.eraseImm = encodedFault i := by cases i <;> rfl

/-- Which bytes fault at classification, and with which cause: the lists of R90 and R91. -/
theorem encodedFault_decodeInstr (op : Byte) (operands : List Byte) :
    encodedFault (decodeInstr op operands) =
      if isInvalidOpcode op then some .invalidOpcode
      else if isUnreachableIndex op then some .unreachableRegisterIndex
      else none := by
  rw [← encodedFault_eraseImm, decodeInstr_eraseImm]
  revert op
  decide +kernel

theorem encodedFault_decodeInstr_eq_invalidOpcode_iff (op : Byte) (operands : List Byte) :
    encodedFault (decodeInstr op operands) = some .invalidOpcode ↔ isInvalidOpcode op = true := by
  rw [encodedFault_decodeInstr]
  split <;> simp [*]

/-- A byte that faults at classification has no operand bytes (R95, decision D14). -/
theorem operandCount_of_encodedFault :
    ∀ op : Byte, (encodedFault (decodeInstr op [])).isSome = true → operandCount op = 0 := by
  decide +kernel

/-- With no operand bytes to read, the fetch cannot fail once the opcode byte was seen. -/
theorem fetchInstr_of_operandCount_zero {s : State} {op : Byte} (h : s.mem.read? s.pc.toNat = some op)
    (h0 : operandCount op = 0) : fetchInstr s = .ok (decodeInstr op []) := by
  have hlen : s.pc.toNat + 1 ≤ s.mem.len.val := by
    rw [Memory.read?_eq] at h
    split at h
    · assumption
    · cases h
  simp [fetchInstr, State.peekByte, h, State.fetch, Memory.readRange?_eq, h0, hlen]

/-! ### The faults an instruction can take -/

/-- A fault encoding takes its fault, whatever the state (R201, R203). -/
theorem exec_of_encodedFault {i : Instr} {c : Cause} (s : State) (h : encodedFault i = some c) :
    exec i s = .next (s.takeFault (plainRecord c (some (opcodeOf i)) s)) := by
  cases i <;> cases h <;> rfl

/-- An instruction that faults is a fault encoding or accesses data outside memory, and its record says which. -/
theorem exec_faulted_cases {i : Instr} {s t : State} (h : exec i s = .next t) (hs : s.status = .running)
    (ht : t.status = .faulted) :
    (∃ c, encodedFault i = some c ∧ t = s.takeFault (plainRecord c (some (opcodeOf i)) s)) ∨
    (accessesData i = true ∧ t = s.takeFault (accessRecord (some (opcodeOf i)) s.ea 1 s)) := by
  cases i with
  | mvLoad dst =>
    obtain ⟨w, -, rfl⟩ | ⟨-, rfl⟩ := loadTo_cases h
    · simp [hs] at ht
    · exact .inr ⟨rfl, rfl⟩
  | mvStore _ | mviStore _ =>
    obtain ⟨m, -, rfl⟩ | ⟨-, rfl⟩ := storeByte_cases h
    · simp [hs] at ht
    · exact .inr ⟨rfl, rfl⟩
  | mvMemMem =>
    simp only [exec, execMvMemMem] at h
    split at h
    · cases h; exact .inr ⟨rfl, rfl⟩
    · obtain ⟨m, -, rfl⟩ | ⟨-, rfl⟩ := storeByte_cases h
      · simp [hs] at ht
      · exact .inr ⟨rfl, rfl⟩
  | uriMvDst0 _ | uriMv32Dst0 _ | uriMv32Dst7 _ | uriMv32Src7 _ | invalidLead00 _ | invalidLead11 _ =>
    cases h; exact .inl ⟨_, rfl, rfl⟩
  | jez _ | jnz _ => cases h; split at ht <;> simp [hs] at ht
  | halt | out | cmp | add | sub | xor | aptr _ | mv _ _ | mvi _ _ | mv32 _ _ | mvi32 _ _ =>
    cases h; simp [hs] at ht

/-! ### The step on a byte that faults at classification -/

/-- Such a byte under `pc` faults, and the record names the byte and its offset (R201, R203, R206). -/
theorem step_of_encodedFault {s : State} {op : Byte} {c : Cause} (hfetch : s.CanFetch)
    (hop : s.mem.read? s.pc.toNat = some op) (h : encodedFault (decodeInstr op []) = some c) :
    step s = .next (s.takeFault (plainRecord c (some op) s)) := by
  have h0 : operandCount op = 0 := operandCount_of_encodedFault op (by simp [h])
  rw [step_canFetch hfetch, fetchInstr_of_operandCount_zero hop h0]
  simpa only [opcodeOf_decodeInstr] using exec_of_encodedFault s h

/-- No other byte under `pc` faults with another cause than OutOfBoundsAccess, which a failed fetch and a failed data
access raise. -/
theorem encodedFault_of_step {s t : State} {op : Byte} {r : FaultRecord} (hfetch : s.CanFetch)
    (hop : s.mem.read? s.pc.toNat = some op) (h : step s = .next t) (ht : t.status = .faulted)
    (hr : t.fault = some r) (hcause : r.cause ≠ .outOfBoundsAccess) :
    encodedFault (decodeInstr op []) = some r.cause := by
  obtain ⟨hs, ⟨hl, -⟩ | ⟨-, ⟨q, hf, rfl⟩ | ⟨i, hf, hx⟩⟩⟩ := step_cases h
  · exact absurd hl (by simp [hfetch.2])
  · cases hr
    obtain ⟨-, rfl⟩ | ⟨_, -, -, rfl⟩ := fetchInstr_error hf <;> exact absurd rfl hcause
  · obtain ⟨op', bytes, hop', -, rfl⟩ := fetchInstr_ok hf
    obtain rfl : op = op' := Option.some.inj (hop.symm.trans hop')
    obtain ⟨c, hc, rfl⟩ | ⟨-, rfl⟩ := exec_faulted_cases hx hs ht
    · cases hr
      rwa [← encodedFault_eraseImm, decodeInstr_eraseImm] at hc
    · cases hr
      exact absurd rfl hcause

/-- Settles O35: the bytes of R90 are those that encode InvalidOpcode, and a step raises it on exactly these. -/
theorem invalidOpcodeBytesFault : Obligations.InvalidOpcodeBytesFault := by
  intro s op hfetch hop
  rw [← encodedFault_decodeInstr_eq_invalidOpcode_iff op []]
  constructor
  · intro h
    exact ⟨_, _, step_of_encodedFault hfetch hop h, rfl, rfl, rfl, rfl, rfl, rfl⟩
  · rintro ⟨t, r, h, ht, hr, hcause, -, -, -⟩
    rw [encodedFault_of_step hfetch hop h ht hr (by simp [hcause]), hcause]

end Sys2Proof.Machine
end

section
/-! PROOF. A fetch outside memory (R95, R202): its record, the step that meets it, and that every opcode byte's fetch
faults so. -/

namespace Sys2Proof.Machine

variable {s : State} {op : Byte} {r : FaultRecord}

/-- With `pc` outside memory the fetch refuses the opcode byte. -/
theorem fetchInstr_of_opcode_outOfBounds (h : s.mem.len.val ≤ s.pc.toNat) :
    fetchInstr s = .error (accessRecord none s.pc.toNat 1 s) := by
  simp [fetchInstr, State.peekByte, Memory.read?_eq, Nat.not_lt.2 h]

/-- With an operand byte outside memory the fetch refuses the operand bytes, and the record names the opcode byte. -/
theorem fetchInstr_of_operands_outOfBounds (hop : s.mem.read? s.pc.toNat = some op)
    (h : s.mem.len.val < s.pc.toNat + 1 + operandCount op) :
    fetchInstr s = .error (accessRecord (some op) (s.pc.toNat + 1) (operandCount op) s) := by
  have hout : ¬ s.pc.toNat + (1 + operandCount op) ≤ s.mem.len.val := by omega
  simp [fetchInstr, State.peekByte, hop, State.fetch, Memory.readRange?_eq, hout]

/-- A step whose fetch fails takes the fetch's fault (R181). -/
theorem step_of_fetchInstr_error (hfetch : s.CanFetch) (h : fetchInstr s = .error r) :
    step s = .next (s.takeFault r) := by
  rw [step_canFetch hfetch, h]
  rfl

/-- The fetch of every opcode byte faults where the byte or one of its operand bytes is outside memory. -/
theorem fetchFaults (op : Byte) : FetchFaults op := by
  rintro s hfetch (hpc | ⟨hop, hoperands⟩)
  · exact ⟨_, _, step_of_fetchInstr_error hfetch (fetchInstr_of_opcode_outOfBounds hpc), rfl, rfl, rfl⟩
  · exact ⟨_, _, step_of_fetchInstr_error hfetch (fetchInstr_of_operands_outOfBounds hop hoperands), rfl, rfl, rfl⟩

end Sys2Proof.Machine
end

section
/-! PROOF. The ALU and compare instructions (R110 to R114): the whole next state of each, and the value it writes. -/

namespace Sys2Proof.Machine

/-! ### The values written -/

/-- Each bit of XOR's result depends on the two bits of the same place alone. -/
theorem aluXor_getLsbD (x y : Byte) (k : Nat) : (aluXor x y).getLsbD k = Bool.xor (x.getLsbD k) (y.getLsbD k) :=
  BitVec.getLsbD_xor

theorem compareFlag_of_eq {x y : Byte} (h : x = y) : compareFlag x y = 0 := if_pos h

theorem compareFlag_of_ne {x y : Byte} (h : x ≠ y) : compareFlag x y = 1 := if_neg h

/-! ### The next states -/

section
variable (s : State)

theorem exec_add : exec .add s = .next { s with a := aluAdd s.a s.b, pc := s.pc + 1, steps := s.steps + 1 } := rfl

theorem exec_sub : exec .sub s = .next { s with a := aluSub s.a s.b, pc := s.pc + 1, steps := s.steps + 1 } := rfl

theorem exec_xor : exec .xor s = .next { s with a := aluXor s.a s.b, pc := s.pc + 1, steps := s.steps + 1 } := rfl

theorem exec_cmp : exec .cmp s = .next { s with f := compareFlag s.a s.b, pc := s.pc + 1, steps := s.steps + 1 } := rfl

end

/-! ### The statements -/

/-- Settles O15: the next state is `exec_add`'s, and `aluAdd_toNat` gives the number in `a`. -/
theorem addIsSumModulo255 : Obligations.AddIsSumModulo255 :=
  ⟨fun rest => decode_cons_append [] rest rfl, fetchFaults _,
    fun s => ⟨_, exec_add s, rfl, aluAdd_toNat s.a s.b⟩⟩

/-- Settles O16: the next state is `exec_sub`'s, and `aluSub_toNat` gives the number in `a`. -/
theorem subCorrectsNegativeBy255 : Obligations.SubCorrectsNegativeBy255 :=
  ⟨fun rest => decode_cons_append [] rest rfl, fetchFaults _,
    fun s => ⟨_, exec_sub s, rfl, aluSub_toNat s.a s.b⟩⟩

/-- Settles O17: the next state is `exec_xor`'s, and `aluXor_getLsbD` gives the bits in `a`. -/
theorem xorIsBitwise : Obligations.XorIsBitwise :=
  ⟨fun rest => decode_cons_append [] rest rfl, fetchFaults _,
    fun s => ⟨_, exec_xor s, rfl, aluXor_getLsbD s.a s.b⟩⟩

/-- Settles O18: the next state is `exec_cmp`'s, and `compareFlag` has one value on each side of the test. -/
theorem cmpWritesEqualityFlag : Obligations.CmpWritesEqualityFlag :=
  ⟨fun rest => decode_cons_append [] rest rfl, fetchFaults _,
    fun s => ⟨_, exec_cmp s, rfl, compareFlag_of_eq, compareFlag_of_ne⟩⟩

end Sys2Proof.Machine
end

section
/-! PROOF. The conditional jumps (R122, R123): the whole next state of each, whichever way the test on `f` goes. -/

namespace Sys2Proof.Machine

/-! ### The next states -/

section
variable (target : Word32) (s : State)

theorem exec_jez :
    exec (.jez target) s = .next { s with pc := if s.f = 0 then target else s.pc + 5, steps := s.steps + 1 } := by
  by_cases hf : s.f = 0
  · simp only [exec, execJez, flagIsZero_iff, if_pos hf]
    rfl
  · simp only [exec, execJez, flagIsZero_iff, if_neg hf]
    rfl

theorem exec_jnz :
    exec (.jnz target) s = .next { s with pc := if s.f = 0 then s.pc + 5 else target, steps := s.steps + 1 } := by
  by_cases hf : s.f = 0
  · simp only [exec, execJnz, flagIsZero_iff, if_pos hf]
    rfl
  · simp only [exec, execJnz, flagIsZero_iff, if_neg hf]
    rfl

end

/-! ### The statements -/

/-- Settles O22: the next state is `exec_jez`'s, on each side of the test. -/
theorem jezJumpsOnZeroFlag : Obligations.JezJumpsOnZeroFlag := by
  refine ⟨fun b0 b1 b2 b3 rest => decode_cons_append [b0, b1, b2, b3] rest rfl, fetchFaults _, fun target s => ⟨?_, ?_⟩⟩
  · intro hf
    rw [exec_jez, if_pos hf]
  · intro hf
    rw [exec_jez, if_neg hf]

/-- Settles O23: the next state is `exec_jnz`'s, on each side of the test. -/
theorem jnzJumpsOnNonzeroFlag : Obligations.JnzJumpsOnNonzeroFlag := by
  refine ⟨fun b0 b1 b2 b3 rest => decode_cons_append [b0, b1, b2, b3] rest rfl, fetchFaults _, fun target s => ⟨?_, ?_⟩⟩
  · intro hf
    rw [exec_jnz, if_neg hf]
  · intro hf
    rw [exec_jnz, if_pos hf]

end Sys2Proof.Machine
end

section
/-! PROOF. OUT and HALT (R130, R131): the whole next state of each, and that no step leaves a state that is not
Running (R33). -/

namespace Sys2Proof.Machine

/-! ### The next states -/

section
variable (s : State)

theorem exec_out : exec .out s = .next { s with out := s.out ++ [s.a], pc := s.pc + 1, steps := s.steps + 1 } := rfl

theorem exec_halt : exec .halt s = .next { s with status := .halted, pc := s.pc + 1, steps := s.steps + 1 } := rfl

end

/-! ### The terminal states -/

/-- Only a Running state has a next state (R33). -/
theorem step_ne_next_of_status_ne_running {s : State} (hs : s.status ≠ .running) (u : State) : step s ≠ .next u :=
  fun hu => hs (step_cases hu).1

/-! ### The statements -/

/-- Settles O24: the next state is `exec_out`'s. -/
theorem outAppendsAccumulator : Obligations.OutAppendsAccumulator :=
  ⟨fun rest => decode_cons_append [] rest rfl, fetchFaults _, exec_out⟩

/-- Settles O25: the next state is `exec_halt`'s, and it is not Running. -/
theorem haltStopsTheMachine : Obligations.HaltStopsTheMachine := by
  refine ⟨fun rest => decode_cons_append [] rest rfl, fetchFaults _, fun s => ⟨_, exec_halt s, rfl, ?_⟩⟩
  exact step_ne_next_of_status_ne_running nofun

end Sys2Proof.Machine
end

section
/-! PROOF. The MV family (R142 to R144, R146): the forms that write a register, the store of a register, and the fault
of an effective address outside memory. -/

namespace Sys2Proof.Machine

/-! ### Byte accesses -/

/-- A byte read answers exactly for the offsets inside memory (R54). -/
theorem Memory.read?_ne_none_iff {m : Memory} {o : Nat} : m.read? o ≠ none ↔ o < m.len.val := by
  simp [Memory.read?_eq]

/-- A read after a byte inside a canonical memory was replaced (R57). -/
theorem Memory.read?_setCell {m : Memory} {o : Nat} (v : Byte) (q : Nat) (hw : m.wf = true) (ho : o < m.len.val) :
    Memory.read? { m with cells := setCell m.cells o v } q = if q = o then some v else m.read? q := by
  simp only [Memory.read?_eq, lookupCell_setCell o q v m.cells hw]
  by_cases hq : q = o
  · subst hq
    simp only [if_pos ho, if_true]
  · simp only [if_neg hq]

/-! ### The next states -/

section
variable (s : State)

theorem exec_mv (x y : Reg8) : exec (.mv x y) s = .next ((s.advance 1).setX8 x (s.x8 y)).countStep := rfl

theorem exec_mvi (x : Reg8) (k : Byte) : exec (.mvi x k) s = .next ((s.advance 2).setX8 x k).countStep := rfl

end

section
variable {s : State}

theorem exec_mvLoad_of_read {v : Byte} (x : Reg8) (h : s.mem.read? s.ea = some v) :
    exec (.mvLoad x) s = .next ((s.advance 1).setX8 x v).countStep := by
  simp only [exec, execMvLoad, loadTo, State.advance_mem, State.ea_advance, h, complete_eq]

theorem exec_mvLoad_outOfBounds (x : Reg8) (h : s.mem.len.val ≤ s.ea) :
    exec (.mvLoad x) s = dataOutOfBounds (opcodeOf (.mvLoad x)) s := by
  simp only [exec, execMvLoad, loadTo, State.advance_mem, State.ea_advance, Memory.read?_eq, if_neg h.not_gt]

theorem exec_mvStore_inBounds (y : Reg8) (h : s.ea < s.mem.len.val) :
    exec (.mvStore y) s
      = .next ((s.advance 1).setMem { s.mem with cells := setCell s.mem.cells s.ea (s.x8 y) }).countStep :=
  storeByte_inBounds 1 h

theorem exec_mvStore_outOfBounds (y : Reg8) (h : s.mem.len.val ≤ s.ea) :
    exec (.mvStore y) s = dataOutOfBounds (opcodeOf (.mvStore y)) s :=
  storeByte_outOfBounds 1 h

end

/-- An instruction of `n` bytes that writes one 8-bit register: that register holds the value, and of the rest only `pc`
and the step count change (R25). -/
theorem writesX8_frame (n : Nat) (x : Reg8) (v : Byte) (s : State) :
    ∃ t, t = ((s.advance n).setX8 x v).countStep ∧ t.x8 x = v ∧ (∀ r, r ≠ x → t.x8 r = s.x8 r) ∧
      t = { s with a := t.a, b := t.b, c := t.c, d := t.d, e := t.e, f := t.f
                   pc := s.pc + BitVec.ofNat 32 n, steps := s.steps + 1 } := by
  refine ⟨_, rfl, by simp, fun r hr => by simp [hr], ?_⟩
  cases x <;> rfl

/-- The fault of a data access at `ea` names the byte at `ea` and keeps memory and the registers (R202, R208). -/
theorem dataOutOfBounds_record (opcode : Byte) (s : State) :
    ∃ t r, dataOutOfBounds opcode s = .next t ∧ t.status = .faulted ∧ t.fault = some r ∧ t.mem = s.mem ∧
      (∀ q, t.x8 q = s.x8 q) ∧ r.cause = .outOfBoundsAccess ∧ r.offset = some (BitVec.ofNat 33 s.ea) ∧
      r.size = some 1 :=
  ⟨_, _, rfl, rfl, rfl, rfl, State.x8_takeFault s _, rfl, rfl, rfl⟩

/-! ### The statements -/

/-- Settles O27: a byte inside memory is written to the register as `writesX8_frame` says, and outside it the load
ends in `dataOutOfBounds`. -/
theorem mvLoadsByteAtEffectiveAddress : Obligations.MvLoadsByteAtEffectiveAddress := by
  refine ⟨fun x rest => ?_, fun _ => fetchFaults _, fun x s => ⟨fun v hread => ?_, fun hout => ?_, ?_⟩⟩
  · cases x <;> exact decode_cons_append [] rest rfl
  · obtain ⟨t, rfl, hframe⟩ := writesX8_frame 1 x v s
    exact ⟨_, exec_mvLoad_of_read x hread, hframe⟩
  · rw [exec_mvLoad_outOfBounds x hout]
    exact dataOutOfBounds_record _ s
  · exact Memory.read?_ne_none_iff.2

/-- Settles O28: inside memory the store replaces the byte at `ea`, which a read of the canonical memory gives back, so
the load after it does too; outside memory it ends in `dataOutOfBounds`. -/
theorem mvStoresByteAtEffectiveAddress : Obligations.MvStoresByteAtEffectiveAddress := by
  refine ⟨fun y rest => ?_, fun _ => fetchFaults _, fun y s hwf => ⟨fun hin => ?_, fun hout => ?_⟩⟩
  · cases y <;> exact decode_cons_append [] rest rfl
  · have hread (q : Nat) := Memory.read?_setCell (s.x8 y) q hwf hin
    have hstored := (hread s.ea).trans (if_pos rfl)
    refine ⟨_, exec_mvStore_inBounds y hin, rfl, rfl, hstored, fun o ho => (hread o).trans (if_neg ho), fun x => ?_⟩
    exact ⟨_, exec_mvLoad_of_read x hstored, by simp⟩
  · rw [exec_mvStore_outOfBounds y hout]
    exact dataOutOfBounds_record _ s

/-- Settles O26: the value written is the source's, and `writesX8_frame` says the rest. -/
theorem mvMovesRegister : Obligations.MvMovesRegister := by
  refine ⟨fun x y rest => ?_, fun _ _ => fetchFaults _, fun x y s => ?_⟩
  · cases x <;> cases y <;> exact decode_cons_append [] rest rfl
  · obtain ⟨t, rfl, hframe⟩ := writesX8_frame 1 x (s.x8 y) s
    exact ⟨_, exec_mv s x y, hframe⟩

/-- Settles O30: the value written is the immediate, and `writesX8_frame` says the rest. -/
theorem mviWritesImmediate : Obligations.MviWritesImmediate := by
  refine ⟨fun x k rest => ?_, fun _ _ => fetchFaults _, fun x k s => ?_⟩
  · cases x <;> exact decode_cons_append [k] rest rfl
  · obtain ⟨t, rfl, hframe⟩ := writesX8_frame 2 x k s
    exact ⟨_, exec_mvi s x k, hframe⟩

end Sys2Proof.Machine
end

section
/-! PROOF. MVI32 (R162, R164): its next state, and what an instruction that writes one 32-bit register leaves unchanged. -/

namespace Sys2Proof.Machine

theorem exec_mvi32 (s : State) (x : Reg32) (v : Word32) :
    exec (.mvi32 x v) s = .next ((s.advance 5).setX32 x v).countStep := rfl

/-- An instruction of `n` bytes that writes one 32-bit register: that register holds the value, also where it is `pc`;
any other `pc` has advanced, and of the rest only the step count changes (R25, R164). -/
theorem writesX32_frame (n : Nat) (x : Reg32) (v : Word32) (s : State) :
    ∃ t, t = ((s.advance n).setX32 x v).countStep ∧ t.x32 x = v ∧
      (∀ r, r ≠ x → t.x32 r = if r = .pc then s.pc + BitVec.ofNat 32 n else s.x32 r) ∧
      t = { s with la := t.la, lb := t.lb, lc := t.lc, ld := t.ld, ptr := t.ptr, pc := t.pc, steps := s.steps + 1 } := by
  refine ⟨_, rfl, by simp, fun r hr => by simp [hr], ?_⟩
  cases x <;> rfl

/-- Settles O34: the value written is the immediate, and `writesX32_frame` says the rest. -/
theorem mvi32WritesImmediate : Obligations.Mvi32WritesImmediate := by
  refine ⟨fun x b0 b1 b2 b3 rest => ?_, fun _ _ => fetchFaults _, fun x v s => ?_⟩
  · cases x <;> exact decode_cons_append [b0, b1, b2, b3] rest rfl
  · obtain ⟨t, rfl, hframe⟩ := writesX32_frame 5 x v s
    exact ⟨_, exec_mvi32 s x v, hframe⟩

end Sys2Proof.Machine
end

section
/-! PROOF. Bytes and instructions (R81 to R96): the round trips of the decoder and the encoder, the operand counts, and
the byte order of an immediate. -/

namespace Sys2Proof

/-! ### From an instruction to its bytes and back -/

/-- The decoder's row for a well-formed instruction's opcode byte is that instruction, its immediate read back from the
operand bytes (R95, R96). -/
theorem decodeInstr_opcodeOf_operandsOf (i : Instr) (h : i.WellFormed) :
    decodeInstr (opcodeOf i) (operandsOf i) = i := by
  cases i with
  | jez t => exact congrArg Instr.jez (imm32Of_le32Bytes t)
  | jnz t => exact congrArg Instr.jnz (imm32Of_le32Bytes t)
  | mvi32 x v =>
    change decodeInstr (opcodeOf (.mvi32 x 0)) (le32Bytes v) = .mvi32 x v
    cases x <;> exact congrArg (Instr.mvi32 _) (imm32Of_le32Bytes v)
  | mvi x k =>
    change decodeInstr (opcodeOf (.mvi x 0)) [k] = .mvi x k
    cases x <;> rfl
  | mviStore k => exact (rfl : decodeInstr 0x78 [k] = .mviStore k)
  | halt | out | cmp | add | sub | xor | aptr _ | mvMemMem => rfl
  | mvLoad x | mvStore x | uriMv32Src7 x => cases x <;> rfl
  | mv x y | mv32 x y => cases x <;> cases y <;> rfl
  | uriMvDst0 bits | uriMv32Dst0 bits | uriMv32Dst7 bits => revert bits; decide
  | invalidLead00 bits | invalidLead11 bits => revert bits; decide

/-- Settles O1: the opcode byte announces the operand bytes, and its row gives the instruction back. -/
theorem decodeOfEncodeGivesInstruction : Obligations.DecodeOfEncodeGivesInstruction := by
  intro i rest h
  have hdecode := decode_cons_append (operandsOf i) rest (operandCount_opcodeOf i h).symm
  rwa [decodeInstr_opcodeOf_operandsOf i h] at hdecode

/-! ### From bytes to an instruction and back -/

@[simp] theorem wf_eraseImm (i : Instr) : i.eraseImm.wf = i.wf := by cases i <;> rfl

/-- The bytes are checked with no operands, which `decodeInstr_eraseImm` allows. -/
theorem decodeInstr_wellFormed (op : Byte) (operands : List Byte) : (decodeInstr op operands).WellFormed := by
  rw [Instr.WellFormed, ← wf_eraseImm, decodeInstr_eraseImm]
  revert op
  decide +kernel

/-- The operand bytes of `i` are none, or the 8-bit or the 32-bit immediate read from `operands`. -/
def Instr.ReadsImmediate (operands : List Byte) (i : Instr) : Prop :=
  operandsOf i = [] ∨ operandsOf i = [imm8Of operands] ∨ operandsOf i = le32Bytes (imm32Of operands)

theorem decodeMv_readsImmediate (dst src : BitVec 3) (operands : List Byte) :
    (decodeMv dst src operands).ReadsImmediate operands := by
  unfold decodeMv
  repeat' split
  all_goals simp [Instr.ReadsImmediate, operandsOf]

theorem decodeMv32_readsImmediate (dst src : BitVec 3) (operands : List Byte) :
    (decodeMv32 dst src operands).ReadsImmediate operands := by
  unfold decodeMv32
  repeat' split
  all_goals simp [Instr.ReadsImmediate, operandsOf]

/-- In each row of the decoder the operand bytes are the immediate that the row reads, if it reads one. -/
theorem decodeInstr_readsImmediate (op : Byte) (operands : List Byte) :
    (decodeInstr op operands).ReadsImmediate operands := by
  have row {c : Prop} [Decidable c] {i j : Instr} (hi : i.ReadsImmediate operands) (hj : j.ReadsImmediate operands) :
      (if c then i else j).ReadsImmediate operands := iteInduction (fun _ => hi) fun _ => hj
  have noImm {i : Instr} (h : operandsOf i = []) : i.ReadsImmediate operands := .inl h
  have aptr : (Instr.aptr (imm8Of operands)).ReadsImmediate operands := .inr (.inl rfl)
  have jez : (Instr.jez (imm32Of operands)).ReadsImmediate operands := .inr (.inr rfl)
  have jnz : (Instr.jnz (imm32Of operands)).ReadsImmediate operands := .inr (.inr rfl)
  unfold decodeInstr
  exact row (noImm rfl) <| row (noImm rfl) <| row (noImm rfl) <| row (noImm rfl) <| row (noImm rfl) <| row (noImm rfl) <|
    row jez <| row jnz <| row aptr <| row (decodeMv_readsImmediate _ _ operands) <|
    row (decodeMv32_readsImmediate _ _ operands) <| row (noImm rfl) (noImm rfl)

/-- Operand bytes of the announced number are the decoded instruction's own. -/
theorem operandsOf_decodeInstr {op : Byte} {operands : List Byte} (h : operands.length = operandCount op) :
    operandsOf (decodeInstr op operands) = operands := by
  have hlen : (operandsOf (decodeInstr op operands)).length = operands.length := by
    rw [← operandCount_opcodeOf _ (decodeInstr_wellFormed op operands), opcodeOf_decodeInstr, h]
  obtain hops | hops | hops := decodeInstr_readsImmediate op operands <;> rw [hops] at hlen ⊢
  · exact (List.eq_nil_of_length_eq_zero hlen.symm).symm
  · obtain ⟨b0, rfl⟩ := List.length_eq_one_iff.1 hlen.symm
    rfl
  · obtain ⟨b0, b1, b2, b3, rfl⟩ : ∃ b0 b1 b2 b3, operands = [b0, b1, b2, b3] := by
      match operands, hlen with
      | [b0, b1, b2, b3], _ => exact ⟨b0, b1, b2, b3, rfl⟩
    exact le32Bytes_le32 b0 b1 b2 b3

/-- Everything a decoded sequence of bytes can be: an opcode byte, all its operand bytes, and what is left (R95). -/
theorem decode_eq_instr {bytes rest : List Byte} {i : Instr} (h : decode bytes = .instr i rest) :
    ∃ op operands, bytes = op :: (operands ++ rest) ∧ operands.length = operandCount op ∧
      i = decodeInstr op operands := by
  cases bytes with
  | nil => cases h
  | cons op tail =>
    by_cases hlen : tail.length < operandCount op
    · simp [decode, hlen] at h
    · simp only [decode, if_neg hlen, Decoded.instr.injEq] at h
      obtain ⟨rfl, rfl⟩ := h
      exact ⟨op, tail.take (operandCount op), by simp, by simpa using hlen, rfl⟩

/-- Settles O2: the opcode byte and the operand bytes of the decoded instruction are those that were read. -/
theorem encodeOfDecodeGivesBytes : Obligations.EncodeOfDecodeGivesBytes := by
  intro bytes rest i h
  obtain ⟨op, operands, rfl, hlen, rfl⟩ := decode_eq_instr h
  refine ⟨decodeInstr_wellFormed op operands, ?_⟩
  rw [encode, opcodeOf_decodeInstr, operandsOf_decodeInstr hlen, List.cons_append]

/-! ### Operand counts, the byte order, and sample words -/

/-- Settles O4: the 256 bytes are checked one by one, and the encoder writes as many operand bytes as are announced. -/
theorem operandCountOfEveryByte : Obligations.OperandCountOfEveryByte := by
  constructor
  · decide +kernel
  · intro i h
    exact ⟨by rw [instrLength, operandCount_opcodeOf i h], Nat.add_comm _ _⟩

/-- Settles O5: each word is the encoding of the instruction, which decodes to it. -/
theorem sampleWordsDecode : Obligations.SampleWordsDecode := by
  have decodes (i : Instr) (h : i.WellFormed) : decode (encode i ++ []) = .instr i [] :=
    decodeOfEncodeGivesInstruction i [] h
  exact ⟨decodes .add rfl, decodes (.jnz 0x100) rfl, decodes (.aptr 200) rfl, decodes .out rfl,
    decodes (.mv .b .e) rfl, decodes (.mvLoad .d) rfl, decodes (.mvStore .d) rfl, decodes (.mvi .d 0x7F) rfl,
    decodes (.mv32 .lc .ld) rfl, decodes (.mvi32 .lb 0xDEADBEEF) rfl, decodes (.uriMv32Dst0 7) rfl,
    decodes (.invalidLead00 0x3F) rfl⟩

/-- Settles O6: four bytes make a number below `2^32`, so nothing is cut off. -/
theorem immediateIsLittleEndian : Obligations.ImmediateIsLittleEndian := by
  intro b0 b1 b2 b3
  rw [le32, BitVec.toNat_ofNat]
  have := b0.isLt
  have := b1.isLt
  have := b2.isLt
  have := b3.isLt
  omega

end Sys2Proof
end

section
/-! PROOF. Memory accesses and `Fetch` (R54 to R57), and the state right after construction (R39, R52). -/

namespace Sys2Proof.Machine

/-! ### Accesses -/

/-- A byte read fails exactly where the bounds check of one byte does (R54). -/
theorem Memory.read?_eq_none_iff {m : Memory} {o : Nat} : m.read? o = none ↔ m.len.val < o + 1 := by
  simp [Memory.read?_eq]

theorem Memory.write?_eq_none_iff {m : Memory} {o : Nat} {v : Byte} : m.write? o v = none ↔ m.len.val < o + 1 := by
  simp [Memory.write?_eq]

/-- A range read fails exactly where the bounds check of the whole range does (R54). -/
theorem Memory.readRange?_eq_none_iff {m : Memory} {o n : Nat} : m.readRange? o n = none ↔ m.len.val < o + n := by
  simp [Memory.readRange?_eq]

/-- A range read that answers was in bounds and gives the bytes in address order (R54, R56). -/
theorem Memory.readRange?_eq_some {m : Memory} {o n : Nat} {bytes : List Byte} (h : m.readRange? o n = some bytes) :
    o + n ≤ m.len.val ∧ bytes = (List.range n).map fun k => lookupCell m.cells (o + k) := by
  rw [Memory.readRange?_eq] at h
  split at h
  case isTrue hin => exact ⟨hin, (Option.some.inj h).symm⟩
  case isFalse => cases h

theorem Memory.le_len_of_readRange? {m : Memory} {o n : Nat} {bytes : List Byte} (h : m.readRange? o n = some bytes) :
    o + n ≤ m.len.val :=
  (Memory.readRange?_eq_some h).1

theorem Memory.length_of_readRange? {m : Memory} {o n : Nat} {bytes : List Byte} (h : m.readRange? o n = some bytes) :
    bytes.length = n := by
  obtain ⟨-, rfl⟩ := Memory.readRange?_eq_some h
  simp

/-- A range read gives the byte of each address in its place (R9, R56). -/
theorem Memory.getElem?_of_readRange? {m : Memory} {o n k : Nat} {bytes : List Byte}
    (h : m.readRange? o n = some bytes) (hk : k < n) : bytes[k]? = m.read? (o + k) := by
  obtain ⟨hin, rfl⟩ := Memory.readRange?_eq_some h
  simp [Memory.read?_eq, hk, show o + k < m.len.val by omega]

/-- Settles O12: each clause is one of the lemmas above. -/
theorem accessesAreBoundsChecked : Obligations.AccessesAreBoundsChecked := fun _ _ _ =>
  ⟨Memory.readRange?_eq_none_iff, fun _ h => ⟨Memory.length_of_readRange? h, fun _ => Memory.getElem?_of_readRange? h⟩,
    Memory.read?_eq_none_iff, fun _ => Memory.write?_eq_none_iff⟩

/-- A byte write that answers replaces the byte of an address inside memory (R57). -/
theorem Memory.write?_eq_some {m m' : Memory} {o : Nat} {v : Byte} (h : m.write? o v = some m') :
    o < m.len.val ∧ m' = { m with cells := setCell m.cells o v } := by
  rw [Memory.write?_eq] at h
  split at h
  case isTrue ho => exact ⟨ho, (Option.some.inj h).symm⟩
  case isFalse => cases h

/-- Settles O13: the written memory is the old one with a byte replaced, which `Memory.read?_setCell` reads back. -/
theorem byteWriteThenRead : Obligations.ByteWriteThenRead := by
  intro m m' o v hw h
  obtain ⟨ho, rfl⟩ := Memory.write?_eq_some h
  have hread (q : Nat) := Memory.read?_setCell v q hw ho
  exact ⟨rfl, (hread o).trans (if_pos rfl), fun q hq => (hread q).trans (if_neg hq)⟩

/-! ### Fetch -/

/-- `Fetch(n)` is the range read at `pc` and the advance past it (R56). -/
theorem State.fetch_eq (n : Nat) (s : State) :
    s.fetch n = (s.mem.readRange? s.pc.toNat n).map fun bytes => (bytes, s.advance n) := by
  unfold State.fetch
  split <;> simp [*]

/-- Settles O14: `fetch` is `readRange?` with the advance, and the bytes read were in bounds, so the advance does not
wrap. -/
theorem fetchMovesPcPastBytes : Obligations.FetchMovesPcPastBytes := by
  intro s n
  rw [State.fetch_eq]
  refine ⟨by rw [Option.map_eq_none_iff, Memory.readRange?_eq_none_iff], fun bytes t h => ?_⟩
  obtain ⟨read, hread, heq⟩ := Option.map_eq_some_iff.1 h
  cases heq
  exact ⟨hread, rfl, pc_add_toNat s n (Memory.le_len_of_readRange? hread)⟩

/-! ### Construction -/

/-- A Running state that has completed nothing and holds no record meets the invariant when its memory is canonical. -/
theorem State.inv_of_fresh {s : State} (hmem : s.mem.wf = true) (hstatus : s.status = .running) (hfault : s.fault = none)
    (hsteps : s.steps = 0) : s.Inv where
  memWf := hmem
  faultIff := by simp [hstatus, hfault]
  faultPc := by simp [hfault]
  faultRange := by simp [hfault]
  haltedPc := by simp [hstatus]
  stepBound := by simp [hsteps]

/-- Settles O11: the reset state has completed nothing. -/
theorem resetMeetsInvariant : Obligations.ResetMeetsInvariant :=
  State.inv_of_fresh State.reset_memWf rfl rfl rfl

/-- What construction answers is the reset state with a memory and a bound (R39). -/
theorem construct_eq_some {image : List Byte} {bound : Option Nat} {s : State} (h : construct image bound = some s) :
    s = { State.reset with mem := s.mem, maxSteps := bound } := by
  unfold construct at h
  split at h
  · cases h; rfl
  · cases h

/-- Settles O9: beside memory and the bound the state is `reset`, which has completed nothing. -/
theorem constructedStateIsReset : Obligations.ConstructedStateIsReset := by
  intro image bound s h
  have heq := construct_eq_some h
  have hmem := construct_memWf h
  refine ⟨heq, State.inv_of_fresh hmem ?_ ?_ ?_⟩ <;> rw [heq] <;> rfl

/-- Settles O10: construction answers exactly for the lengths below the limit. -/
theorem oversizedImageIsRefused : Obligations.OversizedImageIsRefused := by
  intro image bound
  simp [construct, Config.memLenLimit]

/-- Settles O7: every register is 0, and the empty image stores no cell. -/
theorem resetStateValues : Obligations.ResetStateValues := by
  refine ⟨rfl, rfl, rfl, rfl, rfl, fun r => ?_, fun r => ?_, rfl⟩
  · cases r <;> rfl
  · cases r <;> rfl

end Sys2Proof.Machine
end

section
/-! PROOF. What an executed instruction can do: it takes one of its faults, or moves `pc` and writes what the access
matrix names (R25). The frames follow from that. -/

namespace Sys2Proof.Machine

/-! ### One case for each effect -/

/-- An access to data outside memory ends in its fault, for each of the four forms with index 7 (R58, R202). -/
theorem exec_of_data_outOfBounds {i : Instr} {s : State} (hi : accessesData i = true) (hout : s.mem.len.val ≤ s.ea) :
    exec i s = .next (s.takeFault (accessRecord (some (opcodeOf i)) s.ea 1 s)) := by
  cases i with
  | mvLoad x => exact exec_mvLoad_outOfBounds x hout
  | mvStore y => exact exec_mvStore_outOfBounds y hout
  | mviStore k => exact storeByte_outOfBounds 2 hout
  | mvMemMem =>
    have hread : s.mem.read? s.ea = none := Memory.read?_eq_none_iff.2 (Nat.lt_succ_of_le hout)
    simp only [exec, execMvMemMem, hread]
    rfl
  | _ => cases hi

theorem exec_mviStore_inBounds {s : State} (k : Byte) (h : s.ea < s.mem.len.val) :
    exec (.mviStore k) s
      = .next ((s.advance 2).setMem { s.mem with cells := setCell s.mem.cells s.ea k }).countStep :=
  storeByte_inBounds 2 h

theorem exec_mvMemMem_inBounds {s : State} (h : s.ea < s.mem.len.val) :
    exec .mvMemMem s = .next ((s.advance 1).setMem
      { s.mem with cells := setCell s.mem.cells s.ea (lookupCell s.mem.cells s.ea) }).countStep := by
  simp only [exec, execMvMemMem, Memory.read?_eq, if_pos h]
  exact storeByte_inBounds 1 h

/-- Where `pc` is after an instruction that completes: past it, or at its jump's target (R28, R124). -/
def State.nextPc (i : Instr) (s : State) : Word32 :=
  (jumpTarget i s).getD (s.pc + BitVec.ofNat 32 (instrLength i))

theorem State.nextPc_jez (target : Word32) (s : State) :
    s.nextPc (.jez target) = if s.f = 0 then target else s.pc + 5 := by
  simp only [State.nextPc, jumpTarget]
  split <;> rfl

theorem State.nextPc_jnz (target : Word32) (s : State) :
    s.nextPc (.jnz target) = if s.f = 0 then s.pc + 5 else target := by
  simp only [State.nextPc, jumpTarget]
  split <;> rfl

/-- The state with `pc` where it is after an instruction that completes. -/
def State.pass (i : Instr) (s : State) : State := s.setPc (s.nextPc i)

/-- The states that executing `i` from `s` can give, one case for each effect (R25). -/
inductive Executed (i : Instr) (s : State) : State → Prop
  | encodedFault {c : Cause} (h : encodedFault i = some c) :
    Executed i s (s.takeFault (plainRecord c (some (opcodeOf i)) s))
  | dataFault (h : accessesData i = true) (hout : s.mem.len.val ≤ s.ea) :
    Executed i s (s.takeFault (accessRecord (some (opcodeOf i)) s.ea 1 s))
  | writePc (h : writes32 i = some .pc) : Executed i s (s.pass i).countStep
  | writeX32 {x : Reg32} (v : Word32) (h : writes32 i = some x) (hx : x ≠ .pc) :
    Executed i s ((s.pass i).setX32 x v).countStep
  | writeX8 {x : Reg8} (v : Byte) (h : writes8 i = some x) : Executed i s ((s.pass i).setX8 x v).countStep
  | store (v : Byte) (h : storesTo i s = some s.ea) (hin : s.ea < s.mem.len.val) :
    Executed i s ((s.pass i).setMem { s.mem with cells := setCell s.mem.cells s.ea v }).countStep
  | out (h : i = .out) : Executed i s ((s.pass i).appendOut s.a).countStep
  | halt (h : i = .halt) : Executed i s (s.pass i).halt.countStep

/-- The form of MV32 and MVI32: a write to `pc` is the jump, and a write to another register is no jump (R164). -/
theorem executed_setX32 {i : Instr} {s : State} {x : Reg32} {v : Word32} (h : writes32 i = some x)
    (hpc : x = .pc → s.nextPc i = v) (hne : x ≠ .pc → jumpTarget i s = none) :
    Executed i s ((s.advance (instrLength i)).setX32 x v).countStep := by
  by_cases hx : x = .pc
  · subst hx
    cases hpc rfl
    exact .writePc h
  · have hpass : s.pass i = s.advance (instrLength i) := by
      simp only [State.pass, State.nextPc, hne hx]
      rfl
    rw [← hpass]
    exact .writeX32 v h hx

/-- Everything an executed instruction can do. -/
theorem executed_of_exec {i : Instr} {s t : State} (h : exec i s = .next t) : Executed i s t := by
  by_cases hfault : ∃ c, encodedFault i = some c
  · obtain ⟨c, hc⟩ := hfault
    rw [exec_of_encodedFault s hc] at h
    cases h
    exact .encodedFault hc
  by_cases hdata : accessesData i = true ∧ s.mem.len.val ≤ s.ea
  · rw [exec_of_data_outOfBounds hdata.1 hdata.2] at h
    cases h
    exact .dataFault hdata.1 hdata.2
  have hin (hi : accessesData i = true) : s.ea < s.mem.len.val := Nat.lt_of_not_le fun hout => hdata ⟨hi, hout⟩
  cases i with
  | halt => cases h; exact .halt rfl
  | out => cases h; exact .out rfl
  | jez target =>
    rw [exec_jez, ← State.nextPc_jez] at h
    cases h
    exact .writePc rfl
  | jnz target =>
    rw [exec_jnz, ← State.nextPc_jnz] at h
    cases h
    exact .writePc rfl
  | cmp | add | sub | xor | mv _ _ | mvi _ _ => cases h; exact .writeX8 _ rfl
  | aptr k => cases h; exact .writeX32 _ rfl nofun
  | mv32 x y =>
    cases h
    refine executed_setX32 rfl ?_ ?_
    · rintro rfl
      cases y <;> rfl
    · intro hx
      simp [jumpTarget, hx]
  | mvi32 x v =>
    cases h
    refine executed_setX32 rfl ?_ ?_
    · rintro rfl
      rfl
    · intro hx
      simp [jumpTarget, hx]
  | mvLoad x =>
    obtain ⟨v, hv⟩ := Option.ne_none_iff_exists'.1 (Memory.read?_ne_none_iff.2 (hin rfl))
    rw [exec_mvLoad_of_read x hv] at h
    cases h
    exact .writeX8 v rfl
  | mvStore y =>
    rw [exec_mvStore_inBounds y (hin rfl)] at h
    cases h
    exact .store _ rfl (hin rfl)
  | mviStore k =>
    rw [exec_mviStore_inBounds k (hin rfl)] at h
    cases h
    exact .store _ rfl (hin rfl)
  | mvMemMem =>
    rw [exec_mvMemMem_inBounds (hin rfl)] at h
    cases h
    exact .store _ rfl (hin rfl)
  | _ => exact absurd ⟨_, rfl⟩ hfault

section
variable (i : Instr) (s : State)

@[simp] theorem State.pass_pc : (s.pass i).pc = s.nextPc i := rfl
@[simp] theorem State.pass_mem : (s.pass i).mem = s.mem := rfl
@[simp] theorem State.pass_out : (s.pass i).out = s.out := rfl
@[simp] theorem State.pass_status : (s.pass i).status = s.status := rfl
@[simp] theorem State.pass_fault : (s.pass i).fault = s.fault := rfl
@[simp] theorem State.pass_steps : (s.pass i).steps = s.steps := rfl
@[simp] theorem State.pass_maxSteps : (s.pass i).maxSteps = s.maxSteps := rfl
@[simp] theorem State.x8_pass (q : Reg8) : (s.pass i).x8 q = s.x8 q := State.x8_setPc s _ q
@[simp] theorem State.x32_pass (q : Reg32) : (s.pass i).x32 q = if q = .pc then s.nextPc i else s.x32 q :=
  State.x32_setPc s _ q

end

theorem State.setX32_pc_of_ne {s : State} {x : Reg32} (v : Word32) (h : x ≠ .pc) : (s.setX32 x v).pc = s.pc :=
  (State.x32_setX32 s x .pc v).trans (if_neg h.symm)

/-! ### The frames -/

/-- Settles O48: only `writeX8` writes an 8-bit register, the one `writes8` names. -/
theorem eightBitRegisterFrame : Obligations.EightBitRegisterFrame := by
  intro i s t r h hr
  cases executed_of_exec h with
  | @writeX8 x v hx =>
    have hne : r ≠ x := fun hrx => hr (hrx ▸ hx)
    simp [hne]
  | _ => simp

/-- Settles O49: only `writeX32` writes a 32-bit register other than `pc`, the one `writes32` names. -/
theorem thirtyTwoBitRegisterFrame : Obligations.ThirtyTwoBitRegisterFrame := by
  intro i s t r h hpc hr
  cases executed_of_exec h with
  | @writeX32 x v hx =>
    have hne : r ≠ x := fun hrx => hr (hrx ▸ hx)
    simp [hne, hpc]
  | _ => simp [hpc]

/-- No instruction changes the length of memory (R51). -/
theorem exec_mem_len {i : Instr} {s t : State} (h : exec i s = .next t) : t.mem.len = s.mem.len := by
  cases executed_of_exec h <;> simp

/-- Settles O50: only `store` changes memory, and that at `storesTo`. -/
theorem memoryFrame : Obligations.MemoryFrame := by
  intro i s t hw h
  refine ⟨exec_mem_len h, fun o ho => ?_⟩
  cases executed_of_exec h with
  | store v hstore hin =>
    have hne : o ≠ s.ea := fun hoe => ho (hoe ▸ hstore)
    simpa [hne] using Memory.read?_setCell v o hw hin
  | _ => simp

/-- Every instruction keeps memory canonical. -/
theorem exec_memWf {i : Instr} {s t : State} (hw : s.mem.wf = true) (h : exec i s = .next t) : t.mem.wf = true := by
  cases executed_of_exec h with
  | store v _ hin => exact setCell_wf v s.mem.cells hw (Nat.zero_le _) hin
  | _ => simpa using hw

/-- Only OUT changes the output, and it appends `a` (R32, R130). -/
theorem exec_out_field {i : Instr} {s t : State} (h : exec i s = .next t) :
    t.out = if i = .out then s.out ++ [s.a] else s.out := by
  by_cases hi : i = .out
  · subst hi; cases h; rfl
  · cases executed_of_exec h with
    | out hout => exact absurd hout hi
    | _ => simp [hi]

/-- Settles O51: no effect but `out` changes the output, and each effect either counts the step or takes a fault. -/
theorem controllerStateFrame : Obligations.ControllerStateFrame := by
  intro i s t h
  refine ⟨exec_out_field h, ?_, fun hs => ?_, fun hs ht => ?_⟩
  · cases executed_of_exec h <;> simp
  · cases executed_of_exec h <;> simp [hs]
  · cases executed_of_exec h with
    | encodedFault | dataFault => exact absurd rfl ht
    | _ => simp

/-- Settles O52: a fault changes none of the three, and an instruction appends at most the byte in `a`. -/
theorem outputOnlyGrows : Obligations.OutputOnlyGrows := by
  intro s t h
  obtain ⟨-, ⟨-, rfl⟩ | ⟨-, ⟨r, -, rfl⟩ | ⟨i, -, hx⟩⟩⟩ := step_cases h
  · exact ⟨rfl, rfl, .inl rfl⟩
  · exact ⟨rfl, rfl, .inl rfl⟩
  · obtain ⟨hout, hmax, -⟩ := controllerStateFrame i s t hx
    refine ⟨exec_mem_len hx, hmax, ?_⟩
    rw [hout]
    split
    · exact .inr rfl
    · exact .inl rfl

/-- Settles O46: every effect but a fault leaves `pc` at `nextPc`. -/
theorem pcAfterEveryInstruction : Obligations.PcAfterEveryInstruction := by
  intro i s t hs h
  cases executed_of_exec h with
  | encodedFault | dataFault => exact ⟨fun ht => absurd rfl ht, fun _ => rfl⟩
  | writeX32 v hx hpc => exact ⟨fun _ => State.setX32_pc_of_ne v hpc, fun ht => by simp [hs] at ht⟩
  | _ => exact ⟨fun _ => by simp [State.nextPc], fun ht => by simp [hs] at ht⟩

/-- Settles O42: an instruction that faults takes one of the two faults, and each is taken where its condition holds. -/
theorem onlyTheseInstructionsFault : Obligations.OnlyTheseInstructionsFault := by
  intro i s t hs h
  constructor
  · intro ht
    cases executed_of_exec h with
    | encodedFault hc => exact .inl (by simp [hc])
    | dataFault hdata hout => exact .inr ⟨hdata, hout⟩
    | _ => simp [hs] at ht
  · rintro (hc | ⟨hdata, hout⟩)
    · obtain ⟨c, hc⟩ := Option.ne_none_iff_exists'.1 hc
      rw [exec_of_encodedFault s hc] at h
      cases h
      rfl
    · rw [exec_of_data_outOfBounds hdata hout] at h
      cases h
      rfl

end Sys2Proof.Machine
end

section
/-! PROOF. The step: the fetch of a whole instruction, the faults a step can take, and what every step keeps (R181, R200
to R215). -/

namespace Sys2Proof.Machine

/-! ### A step on the bytes of an instruction -/

/-- The fetch of an instruction whose bytes stand at `pc` gives the instruction (R95). -/
theorem fetchInstr_of_encode {s : State} {i : Instr} (hi : i.WellFormed)
    (h : s.mem.readRange? s.pc.toNat (instrLength i) = some (encode i)) : fetchInstr s = .ok i := by
  have hop : s.mem.read? s.pc.toNat = some (opcodeOf i) :=
    (Memory.getElem?_of_readRange? h (k := 0) (by simp [instrLength])).symm
  rw [instrLength, ← operandCount_opcodeOf i hi] at h
  simp only [fetchInstr, State.peekByte, hop, State.fetch, h]
  exact congrArg Except.ok (decodeInstr_opcodeOf_operandsOf i hi)

/-- Settles O43: the fetch gives the instruction, and a step that fetches runs it. -/
theorem stepRunsDecodedInstruction : Obligations.StepRunsDecodedInstruction := by
  rintro s i hi ⟨hfetch, hbytes⟩
  rw [step_canFetch hfetch, fetchInstr_of_encode hi hbytes]

/-- Settles O47: the bytes passed were in bounds, where `pc_add_toNat` says that the sum does not wrap. -/
theorem pcAdvanceNeverWraps : Obligations.PcAdvanceNeverWraps := by
  intro i s t hi hready h ht hjump
  obtain ⟨hfetch, hbytes⟩ := hready
  have hin := Memory.le_len_of_readRange? hbytes
  rw [stepRunsDecodedInstruction s i hi ⟨hfetch, hbytes⟩] at h
  have hpc := (pcAfterEveryInstruction i s t hfetch.1 h).1 ht
  rw [hjump, Option.getD_none] at hpc
  rw [hpc, pc_add_toNat s _ hin]
  exact ⟨rfl, hin⟩

/-- Settles O32: the store leaves HALT at the `pc` it advances to, and the next fetch reads that byte. -/
theorem storeIsSeenByNextFetch : Obligations.StoreIsSeenByNextFetch := by
  intro y s t hw hready hy hea hin h hfetch
  have hpc := pc_add_toNat s 1 (by omega)
  rw [stepRunsDecodedInstruction s _ rfl hready, exec_mvStore_inBounds y hin] at h
  cases h
  rw [step_canFetch hfetch, (fetchInstr_halt_iff _).2 ?_]
  · exact exec_halt _
  · simp only [State.countStep_mem, State.setMem_mem, State.countStep_pc, State.setMem_pc, State.advance_pc, hpc, ← hea]
    rw [Memory.read?_setCell _ _ hw hin, if_pos rfl, hy]

/-! ### Faults -/

theorem encodedFault_decodeInstr_eq_unreachableIndex_iff (op : Byte) (operands : List Byte) :
    encodedFault (decodeInstr op operands) = some .unreachableRegisterIndex ↔ isUnreachableIndex op = true := by
  have hdisjoint : ∀ op : Byte, isUnreachableIndex op = true → isInvalidOpcode op = false := by decide +kernel
  rw [encodedFault_decodeInstr]
  by_cases hop : isUnreachableIndex op = true
  · simp [hop, hdisjoint op hop]
  · simp [hop]

/-- Settles O36: the bytes of R91 are those that encode UnreachableRegisterIndex, and a step raises it on exactly
these. -/
theorem unreachableIndexBytesFault : Obligations.UnreachableIndexBytesFault := by
  intro s op hfetch hop
  rw [← encodedFault_decodeInstr_eq_unreachableIndex_iff op []]
  constructor
  · intro h
    exact ⟨_, _, step_of_encodedFault hfetch hop h, rfl, rfl, rfl, rfl⟩
  · rintro ⟨t, r, h, rfl, hcause, -, -⟩
    rw [encodedFault_of_step hfetch hop h rfl rfl (by simp [hcause]), hcause]

/-- Settles O37. -/
theorem faultEncodingsTakeTheirFault : Obligations.FaultEncodingsTakeTheirFault :=
  fun s _ _ h => exec_of_encodedFault s h

/-- Settles O38: the two ways a fetch can fail, each with its record. -/
theorem fetchOutsideMemoryFaults : Obligations.FetchOutsideMemoryFaults := fun _ hfetch =>
  ⟨fun hpc => step_of_fetchInstr_error hfetch (fetchInstr_of_opcode_outOfBounds hpc),
    fun _ hop hout => step_of_fetchInstr_error hfetch (fetchInstr_of_operands_outOfBounds hop hout)⟩

/-- Settles O39: the access ends in its fault, and the sum fits the record's 33 bits. -/
theorem dataAccessOutsideMemoryFaults : Obligations.DataAccessOutsideMemoryFaults := fun _ s hi hout =>
  ⟨_, _, exec_of_data_outOfBounds hi hout, rfl, rfl, rfl, rfl, rfl, congrArg some (ea_toNat33 s)⟩

/-- At the step bound the step takes its fault before it fetches (R210, R215). -/
theorem step_of_atStepLimit {s : State} (hs : s.status = .running) (hl : s.atStepLimit = true) :
    step s = .next (s.takeFault (stepLimitRecord s)) := by
  unfold step
  rw [hs]
  exact if_pos hl

theorem State.atStepLimit_iff {s : State} : s.atStepLimit = true ↔ ∃ n, s.maxSteps = some n ∧ n ≤ s.steps := by
  unfold State.atStepLimit
  split <;> simp [*]

/-! ### The record of a step's fault -/

/-- What the record of a step's fault says of the state the step began in. -/
structure State.Records (s : State) (r : FaultRecord) : Prop where
  /-- It names the offset the step began at (R208). -/
  pc : r.pc = s.pc
  /-- A refused range is outside memory (R202). -/
  range : r.RangeOk s.mem.len.val
  /-- The cause is the step bound exactly where that was reached (R215). -/
  stepLimit : r.cause = .stepLimitExceeded ↔ s.atStepLimit = true

theorem records_plainRecord {s : State} {c : Cause} (opcode : Option Byte) (hc : c ≠ .outOfBoundsAccess)
    (hl : c = .stepLimitExceeded ↔ s.atStepLimit = true) : s.Records (plainRecord c opcode s) :=
  ⟨rfl, hc, hl⟩

/-- The record's 33 bits hold the offset, so the recorded range is the refused one. -/
theorem records_accessRecord {s : State} {offset size : Nat} (opcode : Option Byte) (hl : s.atStepLimit = false)
    (hoffset : offset < 2 ^ 33) (hsize : size = 1 ∨ size = 4) (hout : s.mem.len.val < offset + size) :
    s.Records (accessRecord opcode offset size s) := by
  refine ⟨rfl, ⟨rfl, hsize, ?_⟩, by simp [accessRecord, hl]⟩
  rwa [BitVec.toNat_ofNat, Nat.mod_eq_of_lt hoffset]

theorem encodedFault_cause_ne {i : Instr} {c : Cause} (h : encodedFault i = some c) :
    c ≠ .outOfBoundsAccess ∧ c ≠ .stepLimitExceeded := by
  cases i <;> cases h <;> exact ⟨nofun, nofun⟩

theorem operandCount_cases (op : Byte) : operandCount op = 0 ∨ operandCount op = 1 ∨ operandCount op = 4 := by
  unfold operandCount
  repeat' split
  all_goals simp

/-- A fetch that fails leaves the range it could not read, which is outside memory (R202). -/
theorem records_of_fetchInstr_error {s : State} {r : FaultRecord} (hl : s.atStepLimit = false)
    (h : fetchInstr s = .error r) : s.Records r := by
  have hpc := s.pc.isLt
  obtain ⟨hop, rfl⟩ | ⟨op, hop, hoperands, rfl⟩ := fetchInstr_error h
  · exact records_accessRecord _ hl (by omega) (.inl rfl) (Memory.read?_eq_none_iff.1 hop)
  · have hin : s.pc.toNat < s.mem.len.val := Memory.read?_ne_none_iff.1 (by simp [hop])
    have hout := Memory.readRange?_eq_none_iff.1 hoperands
    have hcount : operandCount op = 1 ∨ operandCount op = 4 :=
      (operandCount_cases op).resolve_left (by omega)
    exact records_accessRecord _ hl (by omega) hcount (by omega)

/-- A step that faults changes nothing but `status` and the record, and what it records is so. -/
theorem step_faulted {s t : State} (h : step s = .next t) (ht : t.status = .faulted) :
    ∃ r, t = s.takeFault r ∧ s.Records r := by
  obtain ⟨hs, ⟨hl, rfl⟩ | ⟨hl, ⟨r, hf, rfl⟩ | ⟨i, -, hx⟩⟩⟩ := step_cases h
  · exact ⟨_, rfl, records_plainRecord none nofun (by simp [hl])⟩
  · exact ⟨r, rfl, records_of_fetchInstr_error hl hf⟩
  · cases executed_of_exec hx with
    | encodedFault hc =>
      obtain ⟨haccess, hlimit⟩ := encodedFault_cause_ne hc
      exact ⟨_, rfl, records_plainRecord _ haccess (by simp [hlimit, hl])⟩
    | dataFault _ hout =>
      have hea := ea_toNat33 s ▸ (BitVec.ofNat 33 s.ea).isLt
      exact ⟨_, rfl, records_accessRecord _ hl hea (.inl rfl) (Nat.lt_succ_of_le hout)⟩
    | _ => simp [hs] at ht

/-- Settles O41. -/
theorem faultsArePrecise : Obligations.FaultsArePrecise := by
  intro s t h ht
  obtain ⟨r, rfl, hr⟩ := step_faulted h ht
  exact ⟨r, rfl, hr.pc⟩

/-- Settles O40: at the bound its check comes first, and below it no record names that cause. -/
theorem stepLimitIsExact : Obligations.StepLimitIsExact := by
  intro s hs
  refine ⟨State.atStepLimit_iff, step_of_atStepLimit hs, fun hl t r h ht hr => ?_⟩
  obtain ⟨q, rfl, hq⟩ := step_faulted h ht
  cases hr
  simp [hq.stepLimit, hl]

/-! ### The invariant -/

/-- A step that does not fault ran an instruction below the step bound. -/
theorem step_not_faulted {s t : State} (h : step s = .next t) (ht : t.status ≠ .faulted) :
    s.status = .running ∧ s.atStepLimit = false ∧ ∃ i, fetchInstr s = .ok i ∧ exec i s = .next t := by
  obtain ⟨hs, ⟨-, rfl⟩ | ⟨hl, ⟨r, -, rfl⟩ | hrun⟩⟩ := step_cases h
  · exact absurd rfl ht
  · exact absurd rfl ht
  · exact ⟨hs, hl, hrun⟩

/-- Below the bound one more instruction is within it. -/
theorem State.steps_lt_of_atStepLimit_eq_false {s : State} {n : Nat} (hl : s.atStepLimit = false)
    (hn : s.maxSteps = some n) : s.steps < n := by
  simpa [State.atStepLimit, hn] using hl

theorem State.Inv.fault_eq_none {s : State} (hs : s.Inv) (h : s.status ≠ .faulted) : s.fault = none := by
  simpa [h] using hs.faultIff

/-- Taking a fault with a true record keeps the invariant. -/
theorem State.Inv.takeFault {s : State} {r : FaultRecord} (hs : s.Inv) (hr : s.Records r) : (s.takeFault r).Inv where
  memWf := hs.memWf
  faultIff := by simp
  faultPc := by rintro _ ⟨⟩; exact hr.pc
  faultRange := by rintro _ ⟨⟩; exact hr.range
  haltedPc := nofun
  stepBound := hs.stepBound

/-- A HALT was fetched from memory at `pc`, which it moves one byte on without wrapping. -/
theorem exec_halt_haltedPc {s t : State} (hf : fetchInstr s = .ok .halt) (h : exec .halt s = .next t) :
    ∃ o, t.pc.toNat = o + 1 ∧ t.mem.read? o = some 0x01 := by
  have hop := (fetchInstr_halt_iff s).1 hf
  have hin : s.pc.toNat < s.mem.len.val := Memory.read?_ne_none_iff.1 (by simp [hop])
  cases h
  exact ⟨s.pc.toNat, pc_add_toNat s 1 hin, hop⟩

/-- Settles O45: a step that faults takes a true record; any other keeps `fault`, counts one step below the bound, and
ends Halted only by a HALT. -/
theorem stepKeepsInvariant : Obligations.StepKeepsInvariant := by
  intro s t hs h
  by_cases ht : t.status = .faulted
  · obtain ⟨r, rfl, hr⟩ := step_faulted h ht
    exact hs.takeFault hr
  · obtain ⟨hrun, hl, i, hf, hx⟩ := step_not_faulted h ht
    obtain ⟨-, hmax, hsteps, hfault⟩ := controllerStateFrame i s t hx
    have hnone : t.fault = none := (hfault hrun ht).trans (hs.fault_eq_none (by simp [hrun]))
    refine ⟨exec_memWf hs.memWf hx, by simp [hnone, ht], by simp [hnone], by simp [hnone], fun hhalt => ?_, fun n hn => ?_⟩
    · have hread := ((step_halted_iff h).1 hhalt).2
      have hhaltf := (fetchInstr_halt_iff s).2 hread
      cases hf.symm.trans hhaltf
      exact exec_halt_haltedPc hf hx
    · rw [hsteps hrun, if_neg ht]
      exact State.steps_lt_of_atStepLimit_eq_false hl (hmax ▸ hn)

/-! ### The bounded run -/

/-- A run of a state that is not Running stays there (R33). -/
theorem runFor_of_not_running {s : State} (h : s.status ≠ .running) (k : Nat) : runFor k s = s := by
  cases k with
  | zero => rfl
  | succ k =>
    unfold runFor
    split
    case h_1 t ht => exact absurd ht (step_ne_next_of_status_ne_running h t)
    all_goals rfl

theorem runFor_succ_of_step {s t : State} (h : step s = .next t) (k : Nat) : runFor (k + 1) s = runFor k t := by
  simp only [runFor, h]

/-- A step within a bound ends the run within it, or completes one more of its instructions. -/
theorem step_within_bound {s t : State} {n : Nat} (hn : s.maxSteps = some n) (hle : s.steps ≤ n) (h : step s = .next t) :
    t.maxSteps = some n ∧ t.steps ≤ n ∧ (t.status ≠ .running ∨ t.steps = s.steps + 1) := by
  by_cases ht : t.status = .faulted
  · obtain ⟨r, rfl, -⟩ := step_faulted h ht
    exact ⟨hn, hle, .inl nofun⟩
  · obtain ⟨hrun, hl, i, -, hx⟩ := step_not_faulted h ht
    obtain ⟨-, hmax, hsteps, -⟩ := controllerStateFrame i s t hx
    have hlt := State.steps_lt_of_atStepLimit_eq_false hl hn
    rw [hsteps hrun, if_neg ht]
    exact ⟨hmax.trans hn, hlt, .inr rfl⟩

/-- With more steps allowed than are left of the bound, a run ends within the bound: each step ends it or leaves less. -/
theorem runFor_ends {s : State} {n k : Nat} (hn : s.maxSteps = some n) (hle : s.steps ≤ n) (hk : n - s.steps < k) :
    (runFor k s).status ≠ .running ∧ (runFor k s).steps ≤ n := by
  induction k generalizing s with
  | zero => omega
  | succ k ih =>
    by_cases hs : s.status = .running
    · obtain ⟨t, h⟩ := step_next_of_running hs
      obtain ⟨hmax, hsteps, hend⟩ := step_within_bound hn hle h
      rw [runFor_succ_of_step h]
      by_cases ht : t.status = .running
      · have hcount := hend.resolve_left (not_not.2 ht)
        exact ih hmax hsteps (by omega)
      · rw [runFor_of_not_running ht]
        exact ⟨ht, hsteps⟩
    · rw [runFor_of_not_running hs]
      exact ⟨hs, hle⟩

/-- Settles O56. -/
theorem boundedRunEnds : Obligations.BoundedRunEnds :=
  fun _ _ hn hle => runFor_ends hn hle (Nat.lt_succ_self _)

end Sys2Proof.Machine
end

section
/-! PROOF. What no instruction reads (R32, R35, R148): an instruction commutes with a change of the state that it does
not look at. -/

namespace Sys2Proof.Machine

/-- A change of the state that leaves memory, the 8-bit registers, `ptr` and `pc` as they are and passes through every
named update but a write of `la`, `lb`, `lc` or `ld`. A change of fields that an update does not name passes through it
by definition, which is each clause's default proof. -/
structure State.Unread (φ : State → State) : Prop where
  mem (s : State) : (φ s).mem = s.mem := by intros; rfl
  x8 (s : State) (r : Reg8) : (φ s).x8 r = s.x8 r := by intro _ r; cases r <;> rfl
  ptr (s : State) : (φ s).ptr = s.ptr := by intros; rfl
  pc (s : State) : (φ s).pc = s.pc := by intros; rfl
  advance (s : State) (n : Nat) : (φ s).advance n = φ (s.advance n) := by intros; rfl
  setPc (s : State) (v : Word32) : (φ s).setPc v = φ (s.setPc v) := by intros; rfl
  setX8 (s : State) (r : Reg8) (v : Byte) : (φ s).setX8 r v = φ (s.setX8 r v) := by intro _ r _; cases r <;> rfl
  setPtr (s : State) (v : Word32) : (φ s).setX32 .ptr v = φ (s.setX32 .ptr v) := by intros; rfl
  setMem (s : State) (m : Memory) : (φ s).setMem m = φ (s.setMem m) := by intros; rfl
  appendOut (s : State) (v : Byte) : (φ s).appendOut v = φ (s.appendOut v) := by intros; rfl
  halt (s : State) : (φ s).halt = φ s.halt := by intros; rfl
  countStep (s : State) : (φ s).countStep = φ s.countStep := by intros; rfl
  takeFault (s : State) (r : FaultRecord) : (φ s).takeFault r = φ (s.takeFault r) := by intros; rfl

section
variable {φ : State → State} (hφ : State.Unread φ) {i : Instr} {s t : State}
include hφ

theorem State.Unread.ea (s : State) : (φ s).ea = s.ea := by
  simp only [State.ea, hφ.ptr, show (φ s).c = s.c from hφ.x8 s .c]

theorem State.Unread.a (s : State) : (φ s).a = s.a := hφ.x8 s .a
theorem State.Unread.b (s : State) : (φ s).b = s.b := hφ.x8 s .b
theorem State.Unread.f (s : State) : (φ s).f = s.f := hφ.x8 s .f

theorem State.Unread.plainRecord_eq (c : Cause) (opcode : Option Byte) (s : State) :
    plainRecord c opcode (φ s) = plainRecord c opcode s := by
  simp only [plainRecord, hφ.pc]

theorem State.Unread.accessRecord_eq (opcode : Option Byte) (offset size : Nat) (s : State) :
    accessRecord opcode offset size (φ s) = accessRecord opcode offset size s := by
  simp only [accessRecord, hφ.pc]

theorem loadTo_unread {opcode : Byte} {dst : Reg8} {s1 : State} (h : loadTo opcode dst s s1 = .next t) :
    loadTo opcode dst (φ s) (φ s1) = .next (φ t) := by
  obtain ⟨w, hw, rfl⟩ | ⟨hw, rfl⟩ := loadTo_cases h
  · simp only [loadTo, hφ.mem, hφ.ea, hw, hφ.setX8, complete_eq, hφ.countStep]
  · simp only [loadTo, hφ.mem, hφ.ea, hw, dataOutOfBounds, raise_eq, hφ.accessRecord_eq, hφ.takeFault]

theorem storeByte_unread {opcode v : Byte} {s1 : State} (h : storeByte opcode v s s1 = .next t) :
    storeByte opcode v (φ s) (φ s1) = .next (φ t) := by
  obtain ⟨m, hm, rfl⟩ | ⟨hm, rfl⟩ := storeByte_cases h
  · simp only [storeByte, hφ.mem, hφ.ea, hm, hφ.setMem, complete_eq, hφ.countStep]
  · simp only [storeByte, hφ.mem, hφ.ea, hm, dataOutOfBounds, raise_eq, hφ.accessRecord_eq, hφ.takeFault]

/-- Every instruction but the two that move whole 32-bit registers commutes with such a change. -/
theorem exec_unread (hmv : ∀ x y, i ≠ .mv32 x y) (hmvi : ∀ x v, i ≠ .mvi32 x v) (h : exec i s = .next t) :
    exec i (φ s) = .next (φ t) := by
  by_cases hfault : ∃ c, encodedFault i = some c
  · obtain ⟨c, hc⟩ := hfault
    rw [exec_of_encodedFault s hc] at h
    cases h
    rw [exec_of_encodedFault (φ s) hc, hφ.plainRecord_eq, hφ.takeFault]
  cases i with
  | mv32 x y => exact absurd rfl (hmv x y)
  | mvi32 x v => exact absurd rfl (hmvi x v)
  | mvLoad x =>
    simp only [exec, execMvLoad, hφ.advance]
    exact loadTo_unread hφ h
  | mvStore y =>
    simp only [exec, execMvStore, hφ.advance, hφ.x8]
    exact storeByte_unread hφ h
  | mviStore k =>
    simp only [exec, execMviStore, hφ.advance]
    exact storeByte_unread hφ h
  | mvMemMem =>
    simp only [exec, execMvMemMem, hφ.mem, hφ.ea, hφ.advance] at h ⊢
    split at h
    · cases h
      simp only [dataOutOfBounds, raise_eq, hφ.ea, hφ.accessRecord_eq, hφ.takeFault]
    · exact storeByte_unread hφ h
  | jez target | jnz target =>
    cases h
    simp only [exec, execJez, execJnz, hφ.f, hφ.advance, hφ.setPc, complete_eq, ← hφ.countStep, apply_ite φ]
  | halt =>
    cases h
    simp only [exec, execHalt, hφ.advance, hφ.halt, complete_eq, hφ.countStep]
  | out =>
    cases h
    simp only [exec, execOut, hφ.a, hφ.advance, hφ.appendOut, complete_eq, hφ.countStep]
  | aptr k =>
    cases h
    simp only [exec, execAptr, hφ.ptr, hφ.advance, hφ.setPtr, complete_eq, hφ.countStep]
  | cmp | add | sub | xor | mv _ _ | mvi _ _ =>
    cases h
    simp only [exec, execCmp, execAdd, execSub, execXor, execMv, execMvi, hφ.a, hφ.b, hφ.x8, hφ.advance, hφ.setX8,
      complete_eq, hφ.countStep]
  | _ => exact absurd ⟨_, rfl⟩ hfault

/-- An instruction commutes with a change that also passes through every access to a 32-bit register. -/
theorem exec_unread_of_x32 (hread : ∀ s r, (φ s).x32 r = s.x32 r) (hwrite : ∀ s r v, (φ s).setX32 r v = φ (s.setX32 r v))
    (h : exec i s = .next t) : exec i (φ s) = .next (φ t) := by
  cases i with
  | mv32 x y =>
    cases h
    simp only [exec, execMv32, hφ.advance, hread, hwrite, complete_eq, hφ.countStep]
  | mvi32 x v =>
    cases h
    simp only [exec, execMvi32, hφ.advance, hwrite, complete_eq, hφ.countStep]
  | _ => exact exec_unread hφ nofun nofun h

end

/-! ### The output, the step count and the bound -/

/-- The state with other bytes before its output. -/
def State.prependOut (before : List Byte) (s : State) : State := { s with out := before ++ s.out }

theorem State.prependOut_unread (before : List Byte) : State.Unread (State.prependOut before) where
  appendOut s v := by simp only [State.prependOut, State.appendOut, List.append_assoc]

/-- Settles O53. -/
theorem outputIsNeverRead : Obligations.OutputIsNeverRead := fun _ _ _ before h =>
  exec_unread_of_x32 (State.prependOut_unread before) (fun _ r => by cases r <;> rfl) (fun _ r _ => by cases r <;> rfl) h

/-- The state with more steps counted and another step bound. -/
def State.recount (extra : Nat) (bound : Option Nat) (s : State) : State :=
  { s with steps := extra + s.steps, maxSteps := bound }

theorem State.recount_unread (extra : Nat) (bound : Option Nat) : State.Unread (State.recount extra bound) := {}

/-- Settles O54. -/
theorem stepCountIsNeverRead : Obligations.StepCountIsNeverRead := fun _ _ _ extra bound h =>
  exec_unread_of_x32 (State.recount_unread extra bound) (fun _ r => by cases r <;> rfl) (fun _ r _ => by cases r <;> rfl) h

/-! ### The four general 32-bit registers -/

/-- The state with other values in `la`, `lb`, `lc` and `ld`. -/
def State.setWide (va vb vc vd : Word32) (s : State) : State := { s with la := va, lb := vb, lc := vc, ld := vd }

theorem State.setWide_unread (va vb vc vd : Word32) : State.Unread (State.setWide va vb vc vd) := {}

section
variable (va vb vc vd : Word32) (s : State)

@[simp] theorem State.setWide_mem : (s.setWide va vb vc vd).mem = s.mem := rfl
@[simp] theorem State.setWide_out : (s.setWide va vb vc vd).out = s.out := rfl
@[simp] theorem State.setWide_status : (s.setWide va vb vc vd).status = s.status := rfl
@[simp] theorem State.setWide_fault : (s.setWide va vb vc vd).fault = s.fault := rfl
@[simp] theorem State.x8_setWide (r : Reg8) : (s.setWide va vb vc vd).x8 r = s.x8 r := by cases r <;> rfl

theorem exec_mv32 (x y : Reg32) :
    exec (.mv32 x y) s = .next ((s.advance 1).setX32 x ((s.advance 1).x32 y)).countStep := rfl

end

/-- Settles O55: MV32 and MVI32 write no more than a 32-bit register, `pc` and the step count, and no other instruction
looks at the four. -/
theorem wideRegistersDoNotLeak : Obligations.WideRegistersDoNotLeak := by
  intro i s t va vb vc vd h
  change ∃ t', exec i (s.setWide va vb vc vd) = .next t' ∧ _
  cases i with
  | mv32 x y =>
    cases h
    exact ⟨_, exec_mv32 _ x y, by simp⟩
  | mvi32 x v =>
    cases h
    exact ⟨_, exec_mvi32 _ x v, by simp⟩
  | _ => exact ⟨_, exec_unread (State.setWide_unread va vb vc vd) nofun nofun h, by simp⟩

end Sys2Proof.Machine
end

section
/-! PROOF. The laws of ADD and SUB (R42, R115), APTR (R121), the memory forms of MV and MVI (R145, R147), MV32 (R161),
and the host's result (R183). -/

namespace Sys2Proof.Machine

/-! ### ADD and SUB -/

theorem byte_eq_255_iff (x : Byte) : x = 255 ↔ x.toNat = 255 := BitVec.toNat_inj.symm

theorem aluSub_toNat_eq_ite (x y : Byte) :
    (aluSub x y).toNat = if x.toNat < y.toNat then x.toNat + 255 - y.toNat else x.toNat - y.toNat := by
  have hsub := aluSub_toNat x y
  have := y.isLt
  rw [aluModulus] at hsub
  split_ifs at hsub ⊢ <;> omega

/-- The byte that is `x` modulo 255: `x` itself, but 0 for 255. -/
theorem eq_ite_of_toNat_eq_mod {x z : Byte} (h : z.toNat = x.toNat % 255) : z = if x = 255 then 0 else x := by
  have := x.isLt
  apply BitVec.eq_of_toNat_eq
  rw [h]
  split
  case isTrue hx => rw [hx]; rfl
  case isFalse hne =>
    rw [byte_eq_255_iff] at hne
    omega

/-- SUB after ADD gives the first operand modulo 255. -/
theorem aluSub_aluAdd (x y : Byte) : aluSub (aluAdd x y) y = if x = 255 then 0 else x := by
  apply eq_ite_of_toNat_eq_mod
  rw [aluSub_toNat_eq_ite, aluAdd_toNat, aluModulus]
  have := x.isLt
  have := y.isLt
  split <;> omega

/-- ADD after SUB gives the first operand modulo 255. -/
theorem aluAdd_aluSub (x y : Byte) : aluAdd (aluSub x y) y = if x = 255 then 0 else x := by
  apply eq_ite_of_toNat_eq_mod
  rw [aluAdd_toNat, aluSub_toNat_eq_ite, aluModulus]
  have := x.isLt
  have := y.isLt
  split <;> omega

/-- Settles O19: either way round the result is `a` modulo 255. -/
theorem addAndSubAreInverse : Obligations.AddAndSubAreInverse := by
  intro s t u v w ht hu hv hw
  cases ht; cases hu; cases hv; cases hw
  have hu := aluSub_aluAdd s.a s.b
  have hw := aluAdd_aluSub s.a s.b
  constructor
  · intro ha
    rw [if_neg ha] at hu hw
    exact ⟨hu, hw⟩
  · intro ha
    rw [if_pos ha] at hu hw
    exact ⟨hu, fun hwa => absurd (hw.symm.trans (hwa.trans ha)) (by decide)⟩

/-- A remainder modulo 255 is never 255. -/
theorem aluAdd_ne_255 (x y : Byte) : aluAdd x y ≠ 255 := by
  rw [Ne, byte_eq_255_iff, aluAdd_toNat, aluModulus]
  omega

/-- A difference reaches 255 only unwrapped, and there only from the largest minuend. -/
theorem aluSub_eq_255_iff (x y : Byte) : aluSub x y = 255 ↔ x = 255 ∧ y = 0 := by
  have hy : y = 0 ↔ y.toNat = 0 := BitVec.toNat_inj.symm
  rw [byte_eq_255_iff, byte_eq_255_iff, hy, aluSub_toNat_eq_ite]
  have := x.isLt
  split <;> omega

/-- Settles O20. -/
theorem aluResultRanges : Obligations.AluResultRanges := by
  refine ⟨fun s t h => ?_, fun s t h => ?_⟩
  · cases h
    exact aluAdd_ne_255 s.a s.b
  · cases h
    exact aluSub_eq_255_iff s.a s.b

/-! ### APTR -/

theorem exec_aptr (k : Byte) (s : State) :
    exec (.aptr k) s = .next { s with ptr := addToPtr s.ptr k, pc := s.pc + 2, steps := s.steps + 1 } := rfl

theorem addToPtr_toNat (ptr : Word32) (k : Byte) : (addToPtr ptr k).toNat = (ptr.toNat + k.toNat) % 2 ^ 32 := by
  have hk : k.toNat < 2 ^ 32 := k.isLt.trans (by decide)
  rw [addToPtr, BitVec.toNat_add, BitVec.toNat_setWidth, Nat.mod_eq_of_lt hk]

/-- Settles O21: the next state is `exec_aptr`'s, and `addToPtr_toNat` gives the number in `ptr`. -/
theorem aptrAddsUnsignedByte : Obligations.AptrAddsUnsignedByte :=
  ⟨fun k rest => decode_cons_append [k] rest rfl, fun k s => ⟨_, exec_aptr k s, rfl, addToPtr_toNat s.ptr k⟩⟩

/-! ### MV and MVI to memory -/

/-- Writing back the byte that an address has leaves a canonical list as it is. -/
theorem setCell_lookupCell {len lo : Nat} (o : Nat) (cells : List Host.Cell) (hw : cellsWf len lo cells = true) :
    setCell cells o (lookupCell cells o) = cells := by
  induction cells generalizing lo with
  | nil => rfl
  | cons x rest ih =>
    obtain ⟨k, w⟩ := x
    obtain ⟨-, -, hne, hrest⟩ := cellsWf_cons.1 hw
    obtain hlt | rfl | hgt := lt_trichotomy o k
    · simp [setCell, lookupCell, hlt]
    · simp [setCell, lookupCell, hne]
    · simp [setCell, lookupCell, hgt.not_gt, hgt.ne', ih hrest]

/-- Settles O29: the byte written back is the one that canonical memory has. -/
theorem mvMemoryToMemoryRewritesByte : Obligations.MvMemoryToMemoryRewritesByte := by
  refine ⟨fun rest => decode_cons_append [] rest rfl, fun s hw hin => ?_⟩
  rw [exec_mvMemMem_inBounds hin, setCell_lookupCell s.ea s.mem.cells hw]
  rfl

/-- Settles O31: the store replaces the byte at `ea`, which a read of the canonical memory gives back. -/
theorem mviStoresImmediate : Obligations.MviStoresImmediate := by
  refine ⟨fun k rest => decode_cons_append [k] rest rfl, fun k s hw hin => ?_⟩
  have hread (q : Nat) := Memory.read?_setCell k q hw hin
  exact ⟨_, exec_mviStore_inBounds k hin, rfl, rfl, (hread s.ea).trans (if_pos rfl),
    fun o ho => (hread o).trans (if_neg ho)⟩

/-! ### MV32 -/

/-- Settles O33: the value written is the source's after the advance, and `writesX32_frame` says the rest. -/
theorem mv32MovesRegister : Obligations.Mv32MovesRegister := by
  refine ⟨fun x y rest => ?_, fun x y s => ?_⟩
  · cases x <;> cases y <;> exact decode_cons_append [] rest rfl
  · obtain ⟨t, rfl, hvalue, hframe⟩ := writesX32_frame 1 x ((s.advance 1).x32 y) s
    exact ⟨_, exec_mv32 s x y, hvalue.trans (State.x32_advance s 1 y), hframe⟩

/-! ### The host -/

/-- Settles O57: one status for each answer. -/
theorem hostReceivesResult : Obligations.HostReceivesResult := by
  intro s
  cases hs : s.status <;> simp [State.result, hs]

end Sys2Proof.Machine
end
